-- ==== Sys2Proof/Word.lean ====
section
/-!
DEFINITION. The plain data of the block's ports: bytes, register words, the host operation tuple, the inputs of
the five agents, and the small name sets that the instruction constructors and the state share.
Rules: 00_scope.md R9, R10, R14, R15; 30_encoding.md R100, R104, R108; 44_response_classifier.md R261.
-/

namespace Sys2Proof

/-- One byte of the wire, of a template or of a payload (R15). -/
abbrev Byte := BitVec 8

/-- One 32-bit configuration register, counter or `arg` operand (R36, R40, R100). -/
abbrev Word := BitVec 32

/-- A combined nibble value: 37 bits, wide enough for eight digits in either DIGIT_MODE (R149). -/
abbrev Value := BitVec 37

/-- A device address on the bus: 3 bits, legal values 1 to 7, 0 names no device (R71). -/
abbrev DevAddr := BitVec 3

/-- The byte that ends every frame and every template (R107, R112). -/
def terminator : Byte := 0xFF

/-- The request kind `op[1:0]` of a REQ (R108). Code 3 is reserved and is never latched. -/
inductive ReqKind
  | cmd        -- 0: fire-and-forget command
  | cmdWait    -- 1: command that waits for a reply
  | inq        -- 2: inquiry
  | reserved3  -- 3: rejected at acceptance with RESERVED_KIND
  deriving DecidableEq, Repr, Inhabited

/-- The 2-bit code of a request kind (R108). -/
def ReqKind.code : ReqKind → BitVec 2
  | .cmd => 0
  | .cmdWait => 1
  | .inq => 2
  | .reserved3 => 3

/-- The classification kinds of a payload (R261); codes 6 and 7 are never produced, so no constructor stands for them. -/
inductive Kind
  | other | acknowledge | completion | inquiryReply | syntaxError | notExecutable
  deriving DecidableEq, Repr, Inhabited

/-- The 3-bit classification code (R261). -/
def Kind.code : Kind → BitVec 3
  | .other => 0
  | .acknowledge => 1
  | .completion => 2
  | .inquiryReply => 3
  | .syntaxError => 4
  | .notExecutable => 5

/-- Which way a byte travels on the half-duplex link: to the block (RX) or from it (TX). -/
inductive Direction
  | inbound | outbound
  deriving DecidableEq, Repr, Inhabited

/-- One host operation on the op port: the tuple `(op, arg, len, data)` of R100, each field at its width. -/
structure HostOp where
  op : BitVec 8
  arg : Word
  len : BitVec 4
  data : Vector Byte 15
  deriving DecidableEq, Repr

/-- One raw input event of an agent (R10): what a port of the block sees, before any decoding. -/
inductive Input
  | hostOp (w : HostOp)   -- Host: one operation on the op port
  | txAccept              -- Transport, transmit side: TX_ACCEPT
  | rxByte (b : Byte)     -- Transport, receive side: RX_BYTE(b)
  | tick                  -- Time base: TICK
  | reset                 -- Reset source: RESET
  deriving DecidableEq, Repr

/-- A request the host presents on the op port: its kind and the valid bytes of its template. -/
structure Request where
  kind : ReqKind
  template : List Byte
  deriving DecidableEq, Repr

end Sys2Proof
end

