-- ==== Sys2Proof/Config.lean ====
section
/-!
DEFINITION. The implementation parameters of 00_scope.md R7. The five build parameters that may differ from block
to block are the fields of `Params`; every state carries its own `Params`, so a statement about every state holds
for every value of them (R8). `Config.params` is the block that `State.reset` describes: its four OPEN values are
opaque constants, so nothing can be proved of them.
-/

namespace Sys2Proof

/-- How `Digit` reads a byte above 0x0F (R145). -/
inductive DigitMode
  | lowNibble | fullByte
  deriving DecidableEq, Repr, Inhabited

/-- Whether the deframer reassembles frames across polls (R38, D12). -/
inductive Reassembly
  | off | on
  deriving DecidableEq, Repr, Inhabited

/-- The build parameters of R7 that a block fixes once. -/
structure Params where
  reassembly : Reassembly
  digitMode : DigitMode
  ticksPerUnit : Nat
  settleReset : Word
  pollReset : Word
  deriving DecidableEq, Repr

namespace Config

/-- ADDR_MIN (R7). -/
def addrMin : Nat := 1
/-- ADDR_MAX (R7). -/
def addrMax : Nat := 7
/-- ADDR_BITS, the width of `DevAddr` (R7). -/
abbrev addrBits : Nat := 3
/-- REG_WIDTH, the width of `Word` (R7). -/
abbrev regWidth : Nat := 32
/-- MAX_FRAME: header, payload and terminator (R7). -/
abbrev maxFrame : Nat := 16
/-- MAX_TEMPLATE = MAX_FRAME − 1 (R7). -/
def maxTemplate : Nat := 15
/-- MAX_PAYLOAD = MAX_FRAME − 2 (R7). -/
abbrev maxPayload : Nat := 14

end Config

/-- TICKS_PER_UNIT is at least 1 (R7), and TIMEOUT_RESET = 2 × TICKS_PER_UNIT fits the 32-bit register (log 4). -/
def Params.wf (p : Params) : Bool := decide (1 ≤ p.ticksPerUnit) && decide (2 * p.ticksPerUnit < 2 ^ Config.regWidth)

/-- TIMEOUT_RESET = 2 × TICKS_PER_UNIT ticks (R7, R44). -/
def Params.timeoutReset (p : Params) : Word := BitVec.ofNat Config.regWidth (2 * p.ticksPerUnit)

namespace Config

/-- The identity label of R2. -/
def identity : String := "visca-engine/pyvisca-v7"

/-- PAN_NIB's reset value (R7, R47). -/
def panNibReset : BitVec 4 := 4
/-- TILT_NIB's reset value (R7, R47). -/
def tiltNibReset : BitVec 4 := 4
/-- RX_DEPTH (R7, R37). -/
def rxDepth : Nat := 256
/-- N_MAX, the most nibbles one codec operation takes (R150). -/
def nMax : Nat := 8
/-- The longest fragment that is kept as a frame: a header and MAX_PAYLOAD bytes (R189). -/
def maxFragment : Nat := 15

/-- DIGIT_MODE is OPEN (R8): no rule fixes it, so it has no body here. -/
opaque digitMode : DigitMode
/-- TICKS_PER_UNIT − 1, OPEN (R8): no body. The bound keeps 2 × TICKS_PER_UNIT inside 32 bits (log 4). -/
opaque ticksPerUnitLessOne : Fin (2147483646 + 1)
/-- SETTLE_RESET, OPEN (R8): no body. -/
opaque settleReset : Word
/-- POLL_RESET, OPEN (R8): no body. -/
opaque pollReset : Word
/-- A byte at index `i` past the length in the payload field of a diagnostic event, of which R106 states no value: a
free value, a fresh one for each event, which is told apart by the number `n` of outputs before it (log 13). -/
opaque diagFill : (n i : Nat) → Byte

/-- The block of `State.reset`: REASSEMBLY at its default OFF (R7, D12), the four OPEN parameters free. -/
def params : Params where
  reassembly := .off
  digitMode := digitMode
  ticksPerUnit := ticksPerUnitLessOne.val + 1
  settleReset := settleReset
  pollReset := pollReset

end Config
end Sys2Proof
end

