-- ==== Sys2Proof/Syntax.lean ====
section
/-!
DEFINITION. The abstract form of every row of spec/opcode_table.json: host operations, agent events, catalog
pseudo-instructions, wire bytes and whole reply frames. Operands are the fields the row's rule names, already cut
out of the port word; `data[0..len-1]` is a list of at most 15 bytes (R100).
-/

namespace Sys2Proof

/-- One constructor per row of the opcode table, in the table's order. The thirteen RESERVED rows are thirteen
constructors; the operand of each is the op bits that its row's mask leaves free (R102, R103). -/
inductive Instr
  -- Requests (45_transaction_engine.md R285, R286, R287, R282); t = data[0..len-1]
  | reqCmd (t : List Byte)
  | reqCmdWait (t : List Byte)
  | reqInq (t : List Byte)
  | reqK3 (t : List Byte)
  -- Configuration access and the response handshake (R307, R308, R303)
  | cfgw (idx : BitVec 3) (v : Word)
  | cfgr (idx : BitVec 3)
  | take
  -- Value codec (41_value_codec.md)
  | nibSplit (v : Word) (n : BitVec 4)
  | nibCombine (p : List Byte)
  | nibField (p : List Byte) (off n : BitVec 4)
  | decBool (p : List Byte)
  | decNumreg (p : List Byte)
  | decPantilt (p : List Byte)
  | decVersion (p : List Byte)
  -- Response classifier and frame codec (44_response_classifier.md R260, 42_frame_codec.md R180, R182, R185)
  | classify (p : List Byte)
  | frameEnc (a : DevAddr) (t : List Byte)
  | addrDec (h : Byte)
  | split (c : List Byte)
  -- Reserved op values (30_encoding.md R103), one constructor per row
  | reserved00 (lo : BitVec 4)
  | reserved14 (lo : BitVec 2)
  | reserved18 (lo : BitVec 3)
  | reserved28 (lo : BitVec 3)
  | reserved38 (lo : BitVec 3)
  | reserved41
  | reserved42 (lo : BitVec 1)
  | reserved44 (lo : BitVec 2)
  | reserved48 (lo : BitVec 3)
  | reserved5B
  | reserved5C (lo : BitVec 2)
  | reserved60 (lo : BitVec 5)
  | reserved80 (lo : BitVec 7)
  -- Events of the other agents (R288, R316, R290 with R294, R380)
  | txacc
  | rx (b : Byte)
  | tick
  | reset
  -- Catalog pseudo-instructions (43_command_catalog.md R222 to R235)
  | cmdPowerOn
  | cmdPowerOff
  | cmdZoomIn (s : Byte)
  | cmdZoomStop
  | cmdMove (v1 v2 d1 d2 : Byte)
  | cmdMoveStop
  | cmdHome
  | cmdPtReset
  | cmdPresetRecall (ss : Byte)
  | cmdPresetStore (ss : Byte)
  | inqPower
  | inqPantiltPos
  | inqVersion
  | inqRedGain
  -- Wire bytes (R109, R110, R107)
  | hdrOut (a : DevAddr)
  | hdrIn (a : DevAddr) (x : BitVec 4)
  | term (dir : Direction)
  -- Whole reply frames: header h, the row's payload, the terminator (R260, R266)
  | rspAck (h : Byte)
  | rspCompletion (h : Byte)
  | rspInquiryReply (h : Byte) (r : List Byte)
  | rspSyntaxError (h : Byte)
  | rspNotExecutable (h : Byte)
  | rspOther (h : Byte) (p : List Byte)
  deriving DecidableEq, Repr

end Sys2Proof
end

