-- ==== Sys2Proof/WellFormed.lean ====
section
/-!
DEFINITION. Which instruction terms the port formats and the catalog admit: data of at most 15 bytes (R100), the
operand ranges of the catalog (R236), wire headers that carry a device (R109, R110), and reply frames that a
deframer can yield (R196) with the payload of their row (R111).
-/

namespace Sys2Proof

/-- `len` is 4 bits, so a data operand has at most 15 bytes (R100). -/
def dataFits (d : List Byte) : Bool := decide (d.length ≤ 15)

/-- A byte that may stand inside a frame: not the terminator (R196). -/
def inFrame (b : Byte) : Bool := b != terminator

/-- A payload a deframer can yield: 1 to 14 bytes, none of them the terminator (R196). -/
def payloadOk (p : List Byte) : Bool := decide (1 ≤ p.length) && decide (p.length ≤ 14) && p.all inFrame

/-- The zoom speed is 0 to 7 (R224, R236). -/
def zoomSpeedOk (s : Byte) : Bool := decide (s.toNat ≤ 7)
/-- A pan/tilt speed is 0x00 to 0x18 (R226, R236). -/
def panTiltSpeedOk (v : Byte) : Bool := decide (v.toNat ≤ 0x18)
/-- A direction or slot byte is 0x00 to 0xFE (R226, R230, R231, R236). -/
def rawByteOk (d : Byte) : Bool := decide (d.toNat ≤ 0xFE)

/-- None of the five known shapes of R111. -/
def isOtherPayload (p : List Byte) : Bool :=
  p != [0x60, 0x02] && p != [0x61, 0x41] && p != [0x41] && p != [0x51] && p.head? != some 0x50

/-- The instruction terms that the spec's encodings can write. -/
def Instr.wf : Instr → Bool
  | .reqCmd t | .reqCmdWait t | .reqInq t | .reqK3 t => dataFits t
  | .cfgw _ _ | .cfgr _ | .take => true
  | .nibSplit _ _ => true
  | .nibCombine p | .nibField p _ _ | .decBool p | .decNumreg p | .decPantilt p | .decVersion p => dataFits p
  | .classify p => dataFits p
  | .frameEnc _ t => dataFits t
  | .addrDec _ => true
  | .split c => dataFits c
  | .reserved00 _ | .reserved14 _ | .reserved18 _ | .reserved28 _ | .reserved38 _ | .reserved41 => true
  | .reserved42 _ | .reserved44 _ | .reserved48 _ | .reserved5B | .reserved5C _ | .reserved60 _ => true
  | .reserved80 _ => true
  | .txacc | .rx _ | .tick | .reset => true
  | .cmdPowerOn | .cmdPowerOff | .cmdZoomStop | .cmdMoveStop | .cmdHome | .cmdPtReset => true
  | .cmdZoomIn s => zoomSpeedOk s
  | .cmdMove v1 v2 d1 d2 => panTiltSpeedOk v1 && panTiltSpeedOk v2 && rawByteOk d1 && rawByteOk d2
  | .cmdPresetRecall ss | .cmdPresetStore ss => rawByteOk ss
  | .inqPower | .inqPantiltPos | .inqVersion | .inqRedGain => true
  | .hdrOut a => a != 0
  | .hdrIn a x => !(a == 7 && x == 15)
  | .term _ => true
  | .rspAck h | .rspCompletion h | .rspSyntaxError h | .rspNotExecutable h => inFrame h
  | .rspInquiryReply h r => inFrame h && decide (r.length ≤ 13) && r.all inFrame
  | .rspOther h p => inFrame h && payloadOk p && isOtherPayload p

end Sys2Proof
end

