-- ==== Sys2Proof/Decode.lean ====
section
/-!
DEFINITION. Decoding an input event of a port into an instruction, and encoding an instruction as the input events
that carry it. The op map is 30_encoding.md R102: all 256 op values have a meaning, so decoding a host operation
never fails; what is refused, by name, is a number that is wider than the op port's tuple.
-/

namespace Sys2Proof

/-- `n` bytes: the list, then zeros. -/
def padBytes (n : Nat) (l : List Byte) : Vector Byte n := Vector.ofFn fun i => l.getD i.val 0

/-- The valid bytes `data[0..len-1]` of an operation; the rest are ignored (R100). -/
def HostOp.bytes (w : HostOp) : List Byte := w.data.toList.take w.len.toNat

/-- `op & mask = match`, the test a row of the opcode table makes. -/
def opMatches (op mask pattern : BitVec 8) : Bool := op &&& mask == pattern

/-- The op map of R102, one line per row of spec/opcode_table.json, with the operand fields of R115. The last row
(RESERVED, match 0x80, mask 0x80) takes every op value the rows before it leave. -/
def decodeHostOp (w : HostOp) : Instr :=
  let op := w.op
  if opMatches op 0xFF 0x10 then .reqCmd w.bytes
  else if opMatches op 0xFF 0x11 then .reqCmdWait w.bytes
  else if opMatches op 0xFF 0x12 then .reqInq w.bytes
  else if opMatches op 0xFF 0x13 then .reqK3 w.bytes
  else if opMatches op 0xF8 0x20 then .cfgw (op.extractLsb' 0 3) w.arg
  else if opMatches op 0xF8 0x30 then .cfgr (op.extractLsb' 0 3)
  else if opMatches op 0xFF 0x40 then .take
  else if opMatches op 0xFF 0x50 then .nibSplit w.arg w.len
  else if opMatches op 0xFF 0x51 then .nibCombine w.bytes
  else if opMatches op 0xFF 0x52 then .nibField w.bytes (w.arg.extractLsb' 0 4) (w.arg.extractLsb' 4 4)
  else if opMatches op 0xFF 0x53 then .decBool w.bytes
  else if opMatches op 0xFF 0x54 then .decNumreg w.bytes
  else if opMatches op 0xFF 0x55 then .decPantilt w.bytes
  else if opMatches op 0xFF 0x56 then .decVersion w.bytes
  else if opMatches op 0xFF 0x57 then .classify w.bytes
  else if opMatches op 0xFF 0x58 then .frameEnc (w.arg.extractLsb' 0 3) w.bytes
  else if opMatches op 0xFF 0x59 then .addrDec (w.arg.extractLsb' 0 8)
  else if opMatches op 0xFF 0x5A then .split w.bytes
  else if opMatches op 0xF0 0x00 then .reserved00 (op.extractLsb' 0 4)
  else if opMatches op 0xFC 0x14 then .reserved14 (op.extractLsb' 0 2)
  else if opMatches op 0xF8 0x18 then .reserved18 (op.extractLsb' 0 3)
  else if opMatches op 0xF8 0x28 then .reserved28 (op.extractLsb' 0 3)
  else if opMatches op 0xF8 0x38 then .reserved38 (op.extractLsb' 0 3)
  else if opMatches op 0xFF 0x41 then .reserved41
  else if opMatches op 0xFE 0x42 then .reserved42 (op.extractLsb' 0 1)
  else if opMatches op 0xFC 0x44 then .reserved44 (op.extractLsb' 0 2)
  else if opMatches op 0xF8 0x48 then .reserved48 (op.extractLsb' 0 3)
  else if opMatches op 0xFF 0x5B then .reserved5B
  else if opMatches op 0xFC 0x5C then .reserved5C (op.extractLsb' 0 2)
  else if opMatches op 0xE0 0x60 then .reserved60 (op.extractLsb' 0 5)
  else .reserved80 (op.extractLsb' 0 7)

/-- The instruction an input event carries. The events of the other agents decode to themselves; the
pseudo-instructions, wire bytes and reply frames are second names for these and are never decoded to (log 6). -/
def decode : Input → Instr
  | .hostOp w => decodeHostOp w
  | .txAccept => .txacc
  | .rxByte b => .rx b
  | .tick => .tick
  | .reset => .reset

/-- A host operation with the given operands; unused data bytes and operands are 0 (95_test_vectors.md). -/
def opWord (op : BitVec 8) (arg : Word) (d : List Byte) : Input :=
  .hostOp { op := op, arg := arg, len := BitVec.ofNat 4 d.length, data := padBytes 15 d }

/-- The header byte of an outbound frame to `a`: `1000_0aaa` (R109). -/
def outHeader (a : DevAddr) : Byte := 0b10000#5 ++ a

/-- An inbound header byte from `a`: `1aaa_xxxx` (R110). -/
def inHeader (a : DevAddr) (x : BitVec 4) : Byte := 0b1#1 ++ a ++ x

/-- The bytes of one frame as they arrive, one RX_BYTE each: header, payload, terminator (R107). -/
def rxFrame (h : Byte) (p : List Byte) : List Input := (h :: p ++ [terminator]).map .rxByte

/-- The input events that carry an instruction, from the op map (R102), the operand formats (R115), the expansions
of the catalog (R222 to R235) and the wire formats (R107, R109, R110, R111). -/
def encode : Instr → List Input
  | .reqCmd t => [opWord 0x10 0 t]
  | .reqCmdWait t => [opWord 0x11 0 t]
  | .reqInq t => [opWord 0x12 0 t]
  | .reqK3 t => [opWord 0x13 0 t]
  | .cfgw idx v => [opWord (0b00100#5 ++ idx) v []]
  | .cfgr idx => [opWord (0b00110#5 ++ idx) 0 []]
  | .take => [opWord 0x40 0 []]
  | .nibSplit v n => [.hostOp { op := 0x50, arg := v, len := n, data := padBytes 15 [] }]
  | .nibCombine p => [opWord 0x51 0 p]
  | .nibField p off n => [opWord 0x52 (0#24 ++ n ++ off) p]
  | .decBool p => [opWord 0x53 0 p]
  | .decNumreg p => [opWord 0x54 0 p]
  | .decPantilt p => [opWord 0x55 0 p]
  | .decVersion p => [opWord 0x56 0 p]
  | .classify p => [opWord 0x57 0 p]
  | .frameEnc a t => [opWord 0x58 (a.setWidth 32) t]
  | .addrDec h => [opWord 0x59 (h.setWidth 32) []]
  | .split c => [opWord 0x5A 0 c]
  | .reserved00 lo => [opWord (0x0#4 ++ lo) 0 []]
  | .reserved14 lo => [opWord (0b000101#6 ++ lo) 0 []]
  | .reserved18 lo => [opWord (0b00011#5 ++ lo) 0 []]
  | .reserved28 lo => [opWord (0b00101#5 ++ lo) 0 []]
  | .reserved38 lo => [opWord (0b00111#5 ++ lo) 0 []]
  | .reserved41 => [opWord 0x41 0 []]
  | .reserved42 lo => [opWord (0b0100001#7 ++ lo) 0 []]
  | .reserved44 lo => [opWord (0b010001#6 ++ lo) 0 []]
  | .reserved48 lo => [opWord (0b01001#5 ++ lo) 0 []]
  | .reserved5B => [opWord 0x5B 0 []]
  | .reserved5C lo => [opWord (0b010111#6 ++ lo) 0 []]
  | .reserved60 lo => [opWord (0b011#3 ++ lo) 0 []]
  | .reserved80 lo => [opWord (0b1#1 ++ lo) 0 []]
  | .txacc => [.txAccept]
  | .rx b => [.rxByte b]
  | .tick => [.tick]
  | .reset => [.reset]
  | .cmdPowerOn => [opWord 0x10 0 [0x01, 0x04, 0x00, 0x02, 0xFF]]
  | .cmdPowerOff => [opWord 0x10 0 [0x01, 0x04, 0x00, 0x03, 0xFF]]
  | .cmdZoomIn s => [opWord 0x10 0 [0x01, 0x04, 0x07, 0x20 ||| s, 0xFF]]
  | .cmdZoomStop => [opWord 0x10 0 [0x01, 0x04, 0x07, 0x00, 0xFF]]
  | .cmdMove v1 v2 d1 d2 => [opWord 0x10 0 [0x01, 0x06, 0x01, v1, v2, d1, d2, 0xFF]]
  | .cmdMoveStop => [opWord 0x10 0 [0x01, 0x06, 0x01, 0x01, 0x01, 0x03, 0x03, 0xFF]]
  | .cmdHome => [opWord 0x10 0 [0x01, 0x06, 0x04, 0xFF]]
  | .cmdPtReset => [opWord 0x10 0 [0x01, 0x06, 0x05, 0xFF]]
  | .cmdPresetRecall ss => [opWord 0x10 0 [0x01, 0x04, 0x3F, 0x02, ss, 0xFF]]
  | .cmdPresetStore ss => [opWord 0x10 0 [0x01, 0x04, 0x3F, 0x01, ss, 0xFF]]
  | .inqPower => [opWord 0x12 0 [0x09, 0x04, 0x00, 0xFF]]
  | .inqPantiltPos => [opWord 0x12 0 [0x09, 0x06, 0x12, 0xFF]]
  | .inqVersion => [opWord 0x12 0 [0x09, 0x00, 0x02, 0xFF]]
  | .inqRedGain => [opWord 0x12 0 [0x09, 0x04, 0x43, 0xFF]]
  | .hdrOut _ => [.txAccept]
  | .hdrIn a x => [.rxByte (inHeader a x)]
  | .term .inbound => [.rxByte terminator]
  | .term .outbound => [.txAccept]
  | .rspAck h => rxFrame h [0x41]
  | .rspCompletion h => rxFrame h [0x51]
  | .rspInquiryReply h r => rxFrame h (0x50 :: r)
  | .rspSyntaxError h => rxFrame h [0x60, 0x02]
  | .rspNotExecutable h => rxFrame h [0x61, 0x41]
  | .rspOther h p => rxFrame h p

/-- Why a number is not a host operation. -/
inductive DecodeError
  | widerThanPort   -- a bit above the op port's 164-bit tuple is set
  deriving DecidableEq, Repr

/-- Bits of the op-port tuple: op 8, arg 32, len 4, data 15 × 8 (R100). -/
def portBits : Nat := 164

/-- The op-port tuple as one number, first field lowest: op in bits 7..0, arg in 39..8, len in 43..40, data byte i
in bits 51+8i..44+8i (log 7: R100 gives the tuple, not this packing). -/
def unpackHostOp (w : Nat) : Except DecodeError HostOp :=
  if w < 2 ^ portBits then
    .ok { op := BitVec.ofNat 8 w, arg := BitVec.ofNat 32 (w >>> 8), len := BitVec.ofNat 4 (w >>> 40),
          data := Vector.ofFn fun i => BitVec.ofNat 8 (w >>> (44 + 8 * i.val)) }
  else .error .widerThanPort

/-- The number whose unpacking is the operation. -/
def packHostOp (w : HostOp) : Nat :=
  w.op.toNat + w.arg.toNat <<< 8 + w.len.toNat <<< 40 +
    (w.data.toList.foldr (fun b acc => b.toNat + acc <<< 8) 0) <<< 44

/-- The op-port number an opcode-table row of `nbits` bits stands for: its bits, and zeros above them. -/
def tableNumber (nbits w : Nat) : Nat := w % 2 ^ nbits

/-- The instruction the decoder reads from the op-port number `w`, whose bits above `nbits` are 0. -/
def decodeTableWord (nbits w : Nat) : Option Instr :=
  match unpackHostOp (tableNumber nbits w) with
  | .ok o => some (decode (.hostOp o))
  | .error _ => none

end Sys2Proof
end

