-- ==== Sys2Proof/Machine/State.lean ====
section
/-!
DEFINITION. The state of the block: every element of 10_state.md R31, the build parameters, and three lists of the
model's own that stand for the ports' outside (the pending input events, the requests the host holds, and the outputs
so far). Plain data throughout. The reset values are those of R31 and 70_reset_and_hazards.md R381.
-/

namespace Sys2Proof.Machine

/-- The sequencing register `fsm` (R32). Codes 5 to 7 are never held, so no constructor stands for them. -/
inductive Fsm
  | idle | send | settle | wait | done
  deriving DecidableEq, Repr, Inhabited

/-- The 3-bit code of an `fsm` value (R32). -/
def Fsm.code : Fsm → BitVec 3
  | .idle => 0
  | .send => 1
  | .settle => 2
  | .wait => 3
  | .done => 4

/-- Transaction status codes (R340). -/
inductive Status
  | sent | resolved | timeout | rejected
  deriving DecidableEq, Repr, Inhabited

/-- The 2-bit status code (R340). -/
def Status.code : Status → BitVec 2
  | .sent => 0
  | .resolved => 1
  | .timeout => 2
  | .rejected => 3

/-- Reject reasons (R343); codes 5 to 15 are never produced. -/
inductive Reason
  | none | reservedKind | badLength | noTerminator | interiorTerminator
  deriving DecidableEq, Repr, Inhabited

/-- The 4-bit reason code (R343). -/
def Reason.code : Reason → BitVec 4
  | .none => 0
  | .reservedKind => 1
  | .badLength => 2
  | .noTerminator => 3
  | .interiorTerminator => 4

/-- The response record `rsp` (R39). -/
structure Rsp where
  status : Status
  kind : Kind
  addr : DevAddr
  len : BitVec 4
  payload : Vector Byte Config.maxPayload
  reason : Reason
  deriving DecidableEq, Repr

/-- All fields 0 (R31). -/
def Rsp.zero : Rsp where
  status := .sent
  kind := .other
  addr := 0
  len := 0
  payload := padBytes Config.maxPayload []
  reason := .none

/-- A frame a deframer yields: header and payload (R196). -/
structure Frame where
  header : Byte
  payload : List Byte
  deriving DecidableEq, Repr

/-- One entry of SPLIT's result: header, plen, payload (R115). -/
structure FrameEntry where
  header : Byte
  plen : BitVec 4
  payload : List Byte
  deriving DecidableEq, Repr

/-- DEC_BOOL's result `tri` (R156). -/
inductive Tri
  | isFalse | isTrue | unknown
  deriving DecidableEq, Repr, Inhabited

/-- The 2-bit code of `tri`: 0 FALSE, 1 TRUE, 2 UNKNOWN (R115). -/
def Tri.code : Tri → BitVec 2
  | .isFalse => 0
  | .isTrue => 1
  | .unknown => 2

/-- The result a host operation returns (R115); REQ, CFG_WRITE, RSP_TAKE and reserved ops return none. -/
inductive Result
  | rdata (w : Word)
  | nibbles (valid : Bool) (bytes : List Byte)
  | value (valid : Bool) (value : Value)
  | tri (t : Tri)
  | panTilt (valid : Bool) (pan tilt : Value)
  | version (valid : Bool) (vendor model rom : Value) (sockets : Byte)
  | kind (k : Kind) (rlen : BitVec 4)
  | frame (bytes : List Byte) (flen : BitVec 5)
  | address (valid : Bool) (addr : DevAddr)
  | frames (count : BitVec 3) (entries : List FrameEntry)
  deriving DecidableEq, Repr

/-- One output of the block (R13): a byte handed to the transport, a response record delivered at a DONE entry, a
diagnostic event, or the result a host operation returned. -/
inductive Output
  | txByte (b : Byte)
  | response (r : Rsp)
  | diag (addr : DevAddr) (len : BitVec 4) (payload : Vector Byte Config.maxPayload)
  | result (r : Result)
  deriving DecidableEq, Repr

/-- The block has no fault state (R346): no event stops it, so there is no constructor, and no meaning faults. -/
inductive Fault
  deriving DecidableEq, Repr

/-- Why an instruction has no meaning. -/
inductive Refusal
  /-- Raised by an arm of `exec` for an instruction that has no meaning yet. Safe: nothing can be proved of it. -/
  | notModelled (mnemonic : String)
  /-- Raised by a parameterized catalog pseudo-instruction whose operand is outside the range its rule admits: the
  assembler writes no REQ for it and a model gives it no meaning (R236). Safe: nothing can be proved of it. -/
  | operandOutOfRange
  deriving DecidableEq, Repr

/-- The state of the block. -/
structure State where
  /-- The build parameters, which no event changes (R7). -/
  params : Params
  /-- Sequencing register (R32). -/
  fsm : Fsm
  /-- Latched request kind (R34). -/
  latKind : ReqKind
  /-- Latched target address (R34, R50). -/
  latAddr : DevAddr
  /-- Latched copy of TIMEOUT (R34). -/
  latTimeout : Word
  /-- Latched copy of SETTLE (R34). -/
  latSettle : Word
  /-- Latched copy of POLL (R34). -/
  latPoll : Word
  /-- Transmit buffer (R35). -/
  txbuf : Vector Byte Config.maxFrame
  /-- Length of the outbound frame, 0 or 2 to 16 (R35). -/
  txLen : BitVec 5
  /-- Index of the next byte to hand to the transport (R35). -/
  txIdx : BitVec 5
  /-- Ticks since SETTLE was entered (R36). -/
  settleCnt : Word
  /-- Ticks since WAIT was entered, saturating (R36). -/
  waitCnt : Word
  /-- Ticks since the last poll (R36). -/
  pollCnt : Word
  /-- Received bytes no poll has drained, oldest first (R37). -/
  rxFifo : List Byte
  /-- Unterminated fragment carried between polls, REASSEMBLY = ON only (R38). -/
  frag : List Byte
  /-- An oversize fragment is being dropped, REASSEMBLY = ON only (R38). -/
  fragDiscard : Bool
  /-- Response register (R39). -/
  rsp : Rsp
  /-- CTRL.TARGET_ADDR (R41). -/
  targetAddr : DevAddr
  /-- CTRL.DIAG_EN (R41). -/
  diagEn : Bool
  /-- TIMEOUT (R44). -/
  timeout : Word
  /-- SETTLE (R45). -/
  settle : Word
  /-- POLL (R46). -/
  poll : Word
  /-- GEOM.PAN_NIB (R47). -/
  panNib : BitVec 4
  /-- GEOM.TILT_NIB (R47). -/
  tiltNib : BitVec 4
  /-- STATUS.RX_OVF (R48). -/
  rxOvf : Bool
  /-- STATUS.FRAME_OVF (R48). -/
  frameOvf : Bool
  /-- STATUS.BAD_OP (R48). -/
  badOp : Bool
  /-- The model's own: input events still to come, in their total order (R9, R11, log 1). -/
  inputs : List Input
  /-- The model's own: requests the host presents and cannot complete until `fsm` is IDLE (R101, log 2). -/
  held : List Request
  /-- The model's own: every output so far, oldest first (R13, log 3). -/
  outputs : List Output
  deriving DecidableEq, Repr

/-- The state after RESET of a block with parameters `p`: every element at its reset value (R31, R380, R381). -/
def State.resetOf (p : Params) : State where
  params := p
  fsm := .idle
  latKind := .cmd
  latAddr := 0
  latTimeout := 0
  latSettle := 0
  latPoll := 0
  txbuf := padBytes Config.maxFrame []
  txLen := 0
  txIdx := 0
  settleCnt := 0
  waitCnt := 0
  pollCnt := 0
  rxFifo := []
  frag := []
  fragDiscard := false
  rsp := Rsp.zero
  targetAddr := 1
  diagEn := false
  timeout := p.timeoutReset
  settle := p.settleReset
  poll := p.pollReset
  panNib := Config.panNibReset
  tiltNib := Config.tiltNibReset
  rxOvf := false
  frameOvf := false
  badOp := false
  inputs := []
  held := []
  outputs := []

/-- The machine right after reset, for the block of `Config.params`: no input pending, nothing put out. -/
def State.reset : State := State.resetOf Config.params

/-- Put `o` at the end of the outputs (R13). -/
def State.emit (o : Output) (s : State) : State := { s with outputs := s.outputs ++ [o] }

/-- Keep a request that cannot complete yet (R101, R281). Its template is kept as it was presented, and that copy is
accepted later: that the host does not change `len` or `data` while it is held is the model's choice (log 24). -/
def State.hold (r : Request) (s : State) : State := { s with held := s.held ++ [r] }

end Sys2Proof.Machine
end

