-- ==== Sys2Proof/Machine/Flags.lean ====
section
/-!
DEFINITION. The sticky error flags, and the configuration and status words as the host reads them (10_state.md R41
to R49, R53; 60_exceptions.md R345).
-/

namespace Sys2Proof.Machine

/-- STATUS.BAD_OP <- 1 (R103). -/
def State.setBadOp (s : State) : State := { s with badOp := true }

/-- STATUS.RX_OVF <- 1 (R76). -/
def State.setRxOvf (s : State) : State := { s with rxOvf := true }

/-- STATUS.FRAME_OVF <- 1 when a poll dropped an oversize fragment; otherwise unchanged (R189, R193, R345). -/
def State.noteFrameOvf (dropped : Bool) (s : State) : State := { s with frameOvf := s.frameOvf || dropped }

/-- Write 1 to clear on STATUS bits 3, 4 and 5; every other bit is ignored (R48, R307). -/
def State.clearSticky (v : Word) (s : State) : State :=
  { s with
    rxOvf := s.rxOvf && !v.getLsbD 3
    frameOvf := s.frameOvf && !v.getLsbD 4
    badOp := s.badOp && !v.getLsbD 5 }

/-- One bit of a register word. -/
def bit (b : Bool) : BitVec 1 := BitVec.ofBool b

/-- The CTRL word: DIAG_EN in bit 3, TARGET_ADDR in bits [2:0] (R41, R308). -/
def State.ctrlWord (s : State) : Word := 0#28 ++ bit s.diagEn ++ s.targetAddr

/-- The GEOM word: TILT_NIB in bits [7:4], PAN_NIB in bits [3:0] (R47, R308). -/
def State.geomWord (s : State) : Word := 0#24 ++ s.tiltNib ++ s.panNib

/-- The STATUS word, its fields from bit 31 down (R48). -/
def State.statusWord (s : State) : Word :=
  0#7 ++ BitVec.ofNat 9 s.rxFifo.length ++ 0#6 ++ bit (s.params.digitMode == .fullByte) ++
    bit (s.params.reassembly == .on) ++ 0#2 ++ bit s.badOp ++ bit s.frameOvf ++ bit s.rxOvf ++ s.fsm.code

/-- The RSP_INFO word, its fields from bit 31 down (R49). -/
def State.rspInfoWord (s : State) : Word :=
  0#15 ++ bit (s.fsm == .done) ++ s.rsp.reason.code ++ s.rsp.len ++ s.rsp.addr ++ s.rsp.kind.code ++
    s.rsp.status.code

end Sys2Proof.Machine
end

