-- ==== Sys2Proof/Machine/Operands.lean ====
section
/-!
DEFINITION. The pure functions of the operands: nibble codec and reply decoders (41_value_codec.md), address
encoding and decoding, frame splitting (42_frame_codec.md), the classifier (44_response_classifier.md) and request
validation (45_transaction_engine.md R282). None of them reads or writes the state.
-/

namespace Sys2Proof.Machine

/-! ## Nibble codec -/

/-- `Split(v, n)`: n nibbles, most significant first, one in the low 4 bits of each byte (R141). -/
def splitNibbles (v : Word) (n : Nat) : List Byte :=
  (List.range n).map fun i => ((v >>> (4 * (n - 1 - i))) &&& 0xF).setWidth 8

/-- `Digit(b)` in the two DIGIT_MODEs (R145). -/
def digit (m : DigitMode) (b : Byte) : Nat :=
  match m with
  | .lowNibble => b.toNat % 16
  | .fullByte => b.toNat

/-- `Combine(s)` as an exact number: s read as a base-16 big-endian integer (R145). -/
def combineNat (m : DigitMode) (s : List Byte) : Nat := s.foldl (fun acc b => acc * 16 + digit m b) 0

/-- `Combine(s)` at the width of the result (R149). -/
def combine (m : DigitMode) (s : List Byte) : Value := BitVec.ofNat 37 (combineNat m s)

/-- `s[i .. i+n-1]` (R15). -/
def slice (s : List Byte) (i n : Nat) : List Byte := (s.drop i).take n

/-- NIB_SPLIT (R142): a count above N_MAX is not valid (R150). -/
def nibSplitResult (v : Word) (n : BitVec 4) : Result :=
  if n.toNat > Config.nMax then .nibbles false [] else .nibbles true (splitNibbles v n.toNat)

/-- NIB_COMBINE (R146). -/
def nibCombineResult (m : DigitMode) (p : List Byte) : Result :=
  if p.length > Config.nMax then .value false 0 else .value true (combine m p)

/-- `Field(p, off, n)` (R151). -/
def field (m : DigitMode) (p : List Byte) (off n : Nat) : Bool × Value :=
  if n ≤ Config.nMax ∧ off + n ≤ p.length then (true, combine m (slice p off n)) else (false, 0)

/-- NIB_FIELD (R152). -/
def nibFieldResult (m : DigitMode) (p : List Byte) (off n : BitVec 4) : Result :=
  let r := field m p off.toNat n.toNat
  .value r.1 r.2

/-! ## Reply decoders -/

/-- An InquiryReply payload of at least `n` bytes (R153). -/
def isReply (p : List Byte) (n : Nat) : Bool := decide (n ≤ p.length) && p.head? == some 0x50

/-- DEC_BOOL: an exact match of the whole payload (R155, R156). -/
def decBoolResult (p : List Byte) : Result :=
  if p = [0x50, 0x02] then .tri .isTrue
  else if p = [0x50, 0x03] then .tri .isFalse
  else .tri .unknown

/-- DEC_NUMREG (R158). -/
def decNumregResult (m : DigitMode) (p : List Byte) : Result :=
  if isReply p 5 then .value true (combine m (slice p 3 2)) else .value false 0

/-- DEC_PANTILT with nibble widths `pn` and `tn` (R159, R160). -/
def decPantiltResult (m : DigitMode) (pn tn : Nat) (p : List Byte) : Result :=
  if isReply p (1 + pn + tn) then
    .panTilt true (combine m (slice p 1 pn)) (combine m (slice p (pn + 1) tn))
  else .panTilt false 0 0

/-- DEC_VERSION (R161, R162). -/
def decVersionResult (m : DigitMode) (p : List Byte) : Result :=
  if isReply p 8 then
    .version true (combine m (slice p 1 2)) (combine m (slice p 3 2)) (combine m (slice p 5 2)) (p.getD 7 0)
  else .version false 0 0 0 0

/-! ## Frames and addresses -/

/-- `AddrEnc(a) = 0x80 + a` (R181). -/
def addrEnc (a : DevAddr) : Byte := 0x80 + a.setWidth 8

/-- `Encode(a, t)`: the address byte, then the template; no terminator is added (R180, R181). -/
def encodeFrame (a : DevAddr) (t : List Byte) : List Byte := addrEnc a :: t

/-- `AddrDec(h)`: bits [6:4] when bit 7 is 1, no address otherwise (R182). -/
def addrDecode (h : Byte) : Bool × DevAddr := if h.getLsbD 7 then (true, h.extractLsb' 4 3) else (false, 0)

/-- A frame with header `h` is addressed to target `t` (R183). -/
def addressedTo (t : DevAddr) (h : Byte) : Bool := h.getLsbD 7 && h.extractLsb' 4 3 == t

/-- ADDR_DEC (R182). -/
def addrDecResult (h : Byte) : Result :=
  let r := addrDecode h
  .address r.1 r.2

/-- FRAME_ENC; the template is not checked (R180). -/
def frameEncResult (a : DevAddr) (t : List Byte) : Result :=
  .frame (encodeFrame a t) (BitVec.ofNat 5 (t.length + 1))

/-! ## Deframer, stateless form -/

/-- The fragments of `c` when `f` is the fragment so far: maximal runs of non-0xFF bytes (R185, R186). -/
def fragmentsFrom (f : List Byte) : List Byte → List (List Byte)
  | [] => [f]
  | b :: c => if b = terminator then f :: fragmentsFrom [] c else fragmentsFrom (f ++ [b]) c

/-- The fragments of a chunk, the one after its last 0xFF included (R186, R190). -/
def fragments (c : List Byte) : List (List Byte) := fragmentsFrom [] c

/-- `Keep(f)`: an empty, header-only or oversize fragment gives no frame (R187, R188, R189). -/
def keepFragment : List Byte → Option Frame
  | [] => none
  | [_] => none
  | h :: p => if p.length + 1 > Config.maxFragment then none else some ⟨h, p⟩

/-- `SplitFrames(c)` (R185). -/
def splitFrames (c : List Byte) : List Frame := (fragments c).filterMap keepFragment

/-- Some fragment of the chunk is oversize, so a poll of it sets FRAME_OVF (R189). -/
def hasOversize (c : List Byte) : Bool := (fragments c).any fun f => decide (f.length > Config.maxFragment)

/-- SPLIT: `count` and the entries; it sets no flag (R185). -/
def splitResult (c : List Byte) : Result :=
  let fs := splitFrames c
  .frames (BitVec.ofNat 3 fs.length)
    (fs.map fun f => { header := f.header, plen := BitVec.ofNat 4 f.payload.length, payload := f.payload })

/-! ## Deframer, reassembling form -/

/-- What ReassembleFrames carries from byte to byte: the two state elements, the frames so far and the oversize
flag (R192). -/
structure Reassembler where
  frag : List Byte
  discard : Bool
  overflow : Bool
  frames : List Frame
  deriving DecidableEq, Repr

/-- One byte through the fragment buffer (R192, R193). -/
def reassembleByte (r : Reassembler) (b : Byte) : Reassembler :=
  if r.discard then
    if b = terminator then { r with discard := false } else r
  else if b = terminator then
    { r with frag := [], frames := r.frames ++ (keepFragment r.frag).toList }
  else if r.frag.length < Config.maxFragment then { r with frag := r.frag ++ [b] }
  else { r with frag := [], discard := true, overflow := true }

/-- `ReassembleFrames(c)` from a fragment and a discard flag (R192). -/
def reassembleFrames (frag : List Byte) (discard : Bool) (c : List Byte) : Reassembler :=
  c.foldl reassembleByte { frag := frag, discard := discard, overflow := false, frames := [] }

/-! ## Classifier -/

/-- `Classify(p)`, the patterns in the spec's order (R260). -/
def classify (p : List Byte) : Kind :=
  if p = [0x60, 0x02] then .syntaxError
  else if p = [0x61, 0x41] then .notExecutable
  else if p = [0x41] then .acknowledge
  else if p = [0x51] then .completion
  else if p.head? = some 0x50 then .inquiryReply
  else .other

/-- CLASSIFY: the kind and the length of the inquiry result (R260, R264). -/
def classifyResult (p : List Byte) : Result :=
  let k := classify p
  .kind k (if k = .inquiryReply then BitVec.ofNat 4 (p.length - 1) else 0)

/-- The resolve set of a request kind (R299). CMD has no WAIT, and kind 3 is never latched. -/
def resolves : ReqKind → Kind → Bool
  | .cmdWait, k => k != .other
  | .inq, k => k == .inquiryReply || k == .syntaxError || k == .notExecutable
  | .cmd, _ => false
  | .reserved3, _ => false

/-! ## Request validation -/

/-- `Validate(k, t)`: the first check that fails gives the reason (R282, R344). -/
def validate (k : ReqKind) (t : List Byte) : Reason :=
  if k = .reserved3 then .reservedKind
  else if t.length = 0 ∨ t.length > Config.maxTemplate then .badLength
  else if t.getLast? ≠ some terminator then .noTerminator
  else if terminator ∈ t.dropLast then .interiorTerminator
  else .none

end Sys2Proof.Machine
end

