-- ==== Sys2Proof/Machine/Ops.lean ====
section
/-!
DEFINITION. The named operations over the state: the RX FIFO, entry to DONE (`finish`, the block's only trap entry)
and the return from it (`takeResponse`), the poll and its timeout gate, the settle gate, sending, request acceptance,
register access and RESET (20_memory.md R75 to R77; 45_transaction_engine.md R281 to R316; 60_exceptions.md R350,
R351; 70_reset_and_hazards.md R380).
-/

namespace Sys2Proof.Machine

/-! ## Receive side -/

/-- RX_BYTE(b): append b, or drop it and set RX_OVF when the FIFO is full (R75, R76, R316). -/
def State.pushByte (b : Byte) (s : State) : State :=
  if s.rxFifo.length < Config.rxDepth then { s with rxFifo := s.rxFifo ++ [b] } else s.setRxOvf

/-- Several bytes in arrival order, one RX_BYTE each. -/
def State.pushBytes (bs : List Byte) (s : State) : State := bs.foldl (fun t b => t.pushByte b) s

/-! ## Entry to DONE and the return from it -/

/-- A record whose payload is `p`, followed by zeros (R300). -/
def mkRsp (st : Status) (k : Kind) (a : DevAddr) (p : List Byte) (r : Reason) : Rsp where
  status := st
  kind := k
  addr := a
  len := BitVec.ofNat 4 p.length
  payload := padBytes Config.maxPayload p
  reason := r

/-- `Finish`: the outcome is saved in `rsp`, `fsm` becomes DONE, and the record is offered to the host. Nothing else
is saved or changed (R300, R302, R350). -/
def State.finish (st : Status) (k : Kind) (a : DevAddr) (p : List Byte) (r : Reason) (s : State) : State :=
  { s with rsp := mkRsp st k a p r, fsm := .done, outputs := s.outputs ++ [.response (mkRsp st k a p r)] }

/-- RSP_TAKE: DONE becomes IDLE and nothing else changes; in any other state it has no effect (R303, R304, R351). -/
def State.takeResponse (s : State) : State := if s.fsm = .done then { s with fsm := .idle } else s

/-! ## Polling -/

/-- `Diag(addr, len(p), p)` (R106, R310): the record of an Other frame. The 14-byte field starts with the payload, and
the bytes after it are free values, fresh for each event (log 13). `n` is the number of outputs before it. -/
def diagOf (n : Nat) (h : Byte) (p : List Byte) : Output :=
  .diag (h.extractLsb' 4 3) (BitVec.ofNat 4 p.length) (Vector.ofFn fun i => p.getD i.val (Config.diagFill n i.val))

/-- `ProcessFrame` (R297): the address filter, the classifier, the resolve test, and the diagnostic event of an
Other frame while DIAG_EN is 1. The Bool says whether the frame resolved the transaction. -/
def State.processFrame (f : Frame) (s : State) : State × Bool :=
  if addressedTo s.latAddr f.header then
    if resolves s.latKind (classify f.payload) then
      (s.finish .resolved (classify f.payload) (f.header.extractLsb' 4 3) f.payload .none, true)
    else if classify f.payload = .other ∧ s.diagEn = true then
      (s.emit (diagOf s.outputs.length f.header f.payload), false)
    else (s, false)
  else (s, false)

/-- The frames of one poll in order; those after a resolving frame are discarded (R296, R309). -/
def State.processFrames : List Frame → State → State × Bool
  | [], s => (s, false)
  | f :: fs, s =>
    match s.processFrame f with
    | (t, true) => (t, true)
    | (t, false) => processFrames fs t

/-- `FifoDrain` and the deframer of the build: the frames of the chunk, and the state with the FIFO empty, the
fragment buffer moved on (REASSEMBLY = ON) and FRAME_OVF noted (R75, R185, R189, R192, R193, R296). -/
def State.deframe (s : State) : List Frame × State :=
  match s.params.reassembly with
  | .off => (splitFrames s.rxFifo, ({ s with rxFifo := [] } : State).noteFrameOvf (hasOversize s.rxFifo))
  | .on =>
    let r := reassembleFrames s.frag s.fragDiscard s.rxFifo
    (r.frames, ({ s with rxFifo := [], frag := r.frag, fragDiscard := r.discard } : State).noteFrameOvf r.overflow)

/-- `Poll()` (R296). -/
def State.pollOnce (s : State) : State × Bool := s.deframe.2.processFrames s.deframe.1

/-- `PollAndGate()`: the timeout is checked only after a poll that did not resolve (R298). -/
def State.pollAndGate (s : State) : State :=
  match s.pollOnce with
  | (t, true) => t
  | (t, false) => if t.latTimeout ≤ t.waitCnt then t.finish .timeout .other t.latAddr [] .none else t

/-- `EnterWait()`: the window starts, and the first poll happens in the same step (R292). -/
def State.enterWait (s : State) : State := ({ s with fsm := .wait, waitCnt := 0, pollCnt := 0 } : State).pollAndGate

/-! ## Sending and settling -/

/-- `AfterSettle()`: a CMD is done with status SENT, the other kinds wait (R291). -/
def State.afterSettle (s : State) : State :=
  if s.latKind = .cmd then s.finish .sent .other s.latAddr [] .none else s.enterWait

/-- `EndSend()`: a settle delay of 0 is skipped (R289). -/
def State.endSend (s : State) : State :=
  if s.latSettle = 0 then s.afterSettle else { s with settleCnt := 0, fsm := .settle }

/-- The byte `txbuf[tx_idx]` that SEND offers to the transport (R104). -/
def State.txData (s : State) : Byte := s.txbuf.toList.getD s.txIdx.toNat 0

/-- TX_ACCEPT: the transport takes the offered byte; after the last one the frame is sent (R288). It is enabled only
in SEND and has no effect elsewhere (R104, R306, R383). -/
def State.txAccept (s : State) : State :=
  if s.fsm = .send then
    let t : State := { s with txIdx := s.txIdx + 1, outputs := s.outputs ++ [.txByte s.txData] }
    if t.txIdx = t.txLen then t.endSend else t
  else s

/-! ## Time -/

/-- `sat32(v + 1)` (R16, R294). -/
def satSucc (v : Word) : Word := if v = BitVec.allOnes 32 then v else v + 1

/-- The poll spacing P = max(lat_poll, 1) (R294, R295). -/
def pollSpacing (v : Word) : Word := if v = 0 then 1 else v

/-- TICK in SETTLE (R290). -/
def State.tickSettle (s : State) : State :=
  let t : State := { s with settleCnt := s.settleCnt + 1 }
  if t.latSettle ≤ t.settleCnt then t.afterSettle else t

/-- TICK in WAIT (R294). -/
def State.tickWait (s : State) : State :=
  let t : State := { s with waitCnt := satSucc s.waitCnt, pollCnt := s.pollCnt + 1 }
  if pollSpacing t.latPoll ≤ t.pollCnt then ({ t with pollCnt := 0 } : State).pollAndGate else t

/-- TICK: no effect in IDLE, SEND and DONE (R290, R293, R294). -/
def State.tick (s : State) : State :=
  match s.fsm with
  | .settle => s.tickSettle
  | .wait => s.tickWait
  | .idle => s
  | .send => s
  | .done => s

/-! ## Requests -/

/-- `txbuf[0 .. len-1] <- f`; the bytes above keep their values (R283). -/
def overlay (f : List Byte) (buf : Vector Byte Config.maxFrame) : Vector Byte Config.maxFrame :=
  Vector.ofFn fun i => if i.val < f.length then f.getD i.val 0 else buf[i]

/-- Acceptance of a valid request (R283): the latches, the outbound frame, SEND. -/
def State.accept (k : ReqKind) (t : List Byte) (s : State) : State :=
  { s with
    latKind := k
    latAddr := s.targetAddr
    latTimeout := s.timeout
    latSettle := s.settle
    latPoll := s.poll
    txbuf := overlay (encodeFrame s.targetAddr t) s.txbuf
    txLen := BitVec.ofNat 5 (t.length + 1)
    txIdx := 0
    fsm := .send }

/-- REQ (R281 to R284): held unless `fsm` is IDLE; then accepted, or rejected with the reason and nothing sent. -/
def State.request (k : ReqKind) (t : List Byte) (s : State) : State :=
  if s.fsm = .idle then
    if validate k t = .none then s.accept k t
    else s.finish .rejected .other s.targetAddr [] (validate k t)
  else s.hold ⟨k, t⟩

/-! ## Register access -/

/-- A GEOM field is written only with 1 to 8 (R47). -/
def warlNibble (old new : BitVec 4) : BitVec 4 := if 1 ≤ new.toNat ∧ new.toNat ≤ 8 then new else old

/-- TARGET_ADDR is written only with a legal device address, ADDR_MIN to ADDR_MAX (R42). -/
def warlAddr (old new : DevAddr) : DevAddr :=
  if Config.addrMin ≤ new.toNat ∧ new.toNat ≤ Config.addrMax then new else old

/-- CFG_WRITE idx, value (R307). -/
def State.cfgWrite (idx : BitVec 3) (v : Word) (s : State) : State :=
  match idx.toNat with
  | 0 => { s with targetAddr := warlAddr s.targetAddr (v.extractLsb' 0 Config.addrBits), diagEn := v.getLsbD 3 }
  | 1 => { s with timeout := v }
  | 2 => { s with settle := v }
  | 3 => { s with poll := v }
  | 4 => { s with
           panNib := warlNibble s.panNib (v.extractLsb' 0 4)
           tiltNib := warlNibble s.tiltNib (v.extractLsb' 4 4) }
  | 5 => s.clearSticky v
  | _ => s

/-- CFG_READ idx: `rdata` (R308). -/
def State.cfgRead (idx : BitVec 3) (s : State) : Word :=
  match idx.toNat with
  | 0 => s.ctrlWord
  | 1 => s.timeout
  | 2 => s.settle
  | 3 => s.poll
  | 4 => s.geomWord
  | 5 => s.statusWord
  | 6 => s.rspInfoWord
  | _ => 0

/-- A host operation returns `r` in its own event and writes no state (R115, R163). -/
def State.give (r : Result) (s : State) : State := s.emit (.result r)

/-! ## Reset -/

/-- RESET: every element to its reset value. What stands outside the block stays: the outputs already given, the
input events still to come and the requests the host still presents (R380, R382, log 2, log 3). -/
def State.doReset (s : State) : State :=
  { State.resetOf s.params with inputs := s.inputs, held := s.held, outputs := s.outputs }

end Sys2Proof.Machine
end

