-- ==== Sys2Proof/Machine/Codec.lean ====
section
/-!
DEFINITION. The value codec and the reply decoders (41_value_codec.md). Each returns its result in the same event,
writes no state, and acts alike in every `fsm` state (R163); DIGIT_MODE is the block's own parameter (R145).
-/

namespace Sys2Proof.Machine

/-- NIB_SPLIT (R142). -/
def execNibSplit (v : Word) (n : BitVec 4) (s : State) : Host.Outcome State Fault Refusal :=
  .next (s.give (nibSplitResult v n))

/-- NIB_COMBINE (R146). -/
def execNibCombine (p : List Byte) (s : State) : Host.Outcome State Fault Refusal :=
  .next (s.give (nibCombineResult s.params.digitMode p))

/-- NIB_FIELD (R152). -/
def execNibField (p : List Byte) (off n : BitVec 4) (s : State) : Host.Outcome State Fault Refusal :=
  .next (s.give (nibFieldResult s.params.digitMode p off n))

/-- DEC_BOOL (R156). -/
def execDecBool (p : List Byte) (s : State) : Host.Outcome State Fault Refusal := .next (s.give (decBoolResult p))

/-- DEC_NUMREG (R158). -/
def execDecNumreg (p : List Byte) (s : State) : Host.Outcome State Fault Refusal :=
  .next (s.give (decNumregResult s.params.digitMode p))

/-- DEC_PANTILT, the one decoder that reads a register: GEOM (R160). -/
def execDecPantilt (p : List Byte) (s : State) : Host.Outcome State Fault Refusal :=
  .next (s.give (decPantiltResult s.params.digitMode s.panNib.toNat s.tiltNib.toNat p))

/-- DEC_VERSION (R162). -/
def execDecVersion (p : List Byte) (s : State) : Host.Outcome State Fault Refusal :=
  .next (s.give (decVersionResult s.params.digitMode p))

end Sys2Proof.Machine
end

