-- ==== Sys2Proof/Machine/Requests.lean ====
section
/-!
DEFINITION. The four REQ operations (45_transaction_engine.md R281 to R287). Each completes its own event: accepted
or rejected in IDLE, held in every other state; SEND, SETTLE and WAIT then run on TX_ACCEPT and TICK events.
-/

namespace Sys2Proof.Machine

/-- REQ.CMD, kind 0 (R285). -/
def execReqCmd (t : List Byte) (s : State) : Host.Outcome State Fault Refusal := .next (s.request .cmd t)

/-- REQ.CMD_WAIT, kind 1 (R286). -/
def execReqCmdWait (t : List Byte) (s : State) : Host.Outcome State Fault Refusal := .next (s.request .cmdWait t)

/-- REQ.INQ, kind 2 (R287). -/
def execReqInq (t : List Byte) (s : State) : Host.Outcome State Fault Refusal := .next (s.request .inq t)

/-- REQ with the reserved kind 3: always rejected with RESERVED_KIND (R108, R282). -/
def execReqK3 (t : List Byte) (s : State) : Host.Outcome State Fault Refusal := .next (s.request .reserved3 t)

end Sys2Proof.Machine
end

