-- ==== Sys2Proof/Machine/Catalog.lean ====
section
/-!
DEFINITION. The command catalog (43_command_catalog.md): constant templates outside the block's state (R52, R220),
and one pseudo-instruction for each, which is one REQ (R117). An operand outside its range has no meaning (R236).
-/

namespace Sys2Proof.Machine

/-! ## Templates -/

/-- Power On (R222). -/
def powerOnTemplate : List Byte := [0x01, 0x04, 0x00, 0x02, 0xFF]
/-- Power Off (R223). -/
def powerOffTemplate : List Byte := [0x01, 0x04, 0x00, 0x03, 0xFF]
/-- Zoom In: byte 3 is the constant 2 over the speed (R224). -/
def zoomInTemplate (s : Byte) : List Byte := [0x01, 0x04, 0x07, 0x20 ||| s, 0xFF]
/-- Zoom Stop (R225). -/
def zoomStopTemplate : List Byte := [0x01, 0x04, 0x07, 0x00, 0xFF]
/-- Move (R226). -/
def moveTemplate (v1 v2 d1 d2 : Byte) : List Byte := [0x01, 0x06, 0x01, v1, v2, d1, d2, 0xFF]
/-- Move Stop (R227). -/
def moveStopTemplate : List Byte := [0x01, 0x06, 0x01, 0x01, 0x01, 0x03, 0x03, 0xFF]
/-- Home (R228). -/
def homeTemplate : List Byte := [0x01, 0x06, 0x04, 0xFF]
/-- The camera's Reset (R229). -/
def ptResetTemplate : List Byte := [0x01, 0x06, 0x05, 0xFF]
/-- Preset recall (R230). -/
def presetRecallTemplate (ss : Byte) : List Byte := [0x01, 0x04, 0x3F, 0x02, ss, 0xFF]
/-- Preset store (R231). -/
def presetStoreTemplate (ss : Byte) : List Byte := [0x01, 0x04, 0x3F, 0x01, ss, 0xFF]
/-- Power inquiry (R232). -/
def inqPowerTemplate : List Byte := [0x09, 0x04, 0x00, 0xFF]
/-- Pan/tilt position inquiry (R233). -/
def inqPantiltPosTemplate : List Byte := [0x09, 0x06, 0x12, 0xFF]
/-- Version inquiry (R234). -/
def inqVersionTemplate : List Byte := [0x09, 0x00, 0x02, 0xFF]
/-- Red gain inquiry (R235). -/
def inqRedGainTemplate : List Byte := [0x09, 0x04, 0x43, 0xFF]

/-- The REQ of an admitted operand; an operand outside its range is refused (R236). -/
def requestIf (admitted : Bool) (k : ReqKind) (t : List Byte) (s : State) : Host.Outcome State Fault Refusal :=
  if admitted then .next (s.request k t) else .refused .operandOutOfRange

/-! ## Commands -/

/-- CMD.POWER_ON (R222). -/
def execCmdPowerOn (s : State) : Host.Outcome State Fault Refusal := .next (s.request .cmd powerOnTemplate)

/-- CMD.POWER_OFF (R223). -/
def execCmdPowerOff (s : State) : Host.Outcome State Fault Refusal := .next (s.request .cmd powerOffTemplate)

/-- CMD.ZOOM_IN s, s = 0 to 7 (R224). -/
def execCmdZoomIn (speed : Byte) (s : State) : Host.Outcome State Fault Refusal :=
  requestIf (zoomSpeedOk speed) .cmd (zoomInTemplate speed) s

/-- CMD.ZOOM_STOP (R225). -/
def execCmdZoomStop (s : State) : Host.Outcome State Fault Refusal := .next (s.request .cmd zoomStopTemplate)

/-- CMD.MOVE v1, v2, d1, d2 (R226). -/
def execCmdMove (v1 v2 d1 d2 : Byte) (s : State) : Host.Outcome State Fault Refusal :=
  requestIf (panTiltSpeedOk v1 && panTiltSpeedOk v2 && rawByteOk d1 && rawByteOk d2) .cmd (moveTemplate v1 v2 d1 d2) s

/-- CMD.MOVE_STOP (R227). -/
def execCmdMoveStop (s : State) : Host.Outcome State Fault Refusal := .next (s.request .cmd moveStopTemplate)

/-- CMD.HOME, kind CMD by default (R228). -/
def execCmdHome (s : State) : Host.Outcome State Fault Refusal := .next (s.request .cmd homeTemplate)

/-- CMD.PT_RESET: a frame for the camera; it does not reset the block (R229). -/
def execCmdPtReset (s : State) : Host.Outcome State Fault Refusal := .next (s.request .cmd ptResetTemplate)

/-- CMD.PRESET_RECALL ss (R230). -/
def execCmdPresetRecall (ss : Byte) (s : State) : Host.Outcome State Fault Refusal :=
  requestIf (rawByteOk ss) .cmd (presetRecallTemplate ss) s

/-- CMD.PRESET_STORE ss (R231). -/
def execCmdPresetStore (ss : Byte) (s : State) : Host.Outcome State Fault Refusal :=
  requestIf (rawByteOk ss) .cmd (presetStoreTemplate ss) s

/-! ## Inquiries -/

/-- INQ.POWER (R232). -/
def execInqPower (s : State) : Host.Outcome State Fault Refusal := .next (s.request .inq inqPowerTemplate)

/-- INQ.PANTILT_POS (R233). -/
def execInqPantiltPos (s : State) : Host.Outcome State Fault Refusal := .next (s.request .inq inqPantiltPosTemplate)

/-- INQ.VERSION (R234). -/
def execInqVersion (s : State) : Host.Outcome State Fault Refusal := .next (s.request .inq inqVersionTemplate)

/-- INQ.RED_GAIN (R235). -/
def execInqRedGain (s : State) : Host.Outcome State Fault Refusal := .next (s.request .inq inqRedGainTemplate)

/-- The decoder operation the host runs on the reply payload of a catalog inquiry (R232 to R235, R342). -/
def replyDecoder : Instr → Option (List Byte → Instr)
  | .inqPower => some .decBool
  | .inqPantiltPos => some .decPantilt
  | .inqVersion => some .decVersion
  | .inqRedGain => some .decNumreg
  | .reqCmd _ | .reqCmdWait _ | .reqInq _ | .reqK3 _ | .cfgw _ _ | .cfgr _ | .take => none
  | .nibSplit _ _ | .nibCombine _ | .nibField _ _ _ | .decBool _ | .decNumreg _ | .decPantilt _ => none
  | .decVersion _ | .classify _ | .frameEnc _ _ | .addrDec _ | .split _ => none
  | .reserved00 _ | .reserved14 _ | .reserved18 _ | .reserved28 _ | .reserved38 _ | .reserved41 => none
  | .reserved42 _ | .reserved44 _ | .reserved48 _ | .reserved5B | .reserved5C _ | .reserved60 _ => none
  | .reserved80 _ | .txacc | .rx _ | .tick | .reset => none
  | .cmdPowerOn | .cmdPowerOff | .cmdZoomIn _ | .cmdZoomStop | .cmdMove _ _ _ _ | .cmdMoveStop => none
  | .cmdHome | .cmdPtReset | .cmdPresetRecall _ | .cmdPresetStore _ => none
  | .hdrOut _ | .hdrIn _ _ | .term _ | .rspAck _ | .rspCompletion _ | .rspInquiryReply _ _ => none
  | .rspSyntaxError _ | .rspNotExecutable _ | .rspOther _ _ => none

end Sys2Proof.Machine
end

