-- ==== Sys2Proof/Machine/ConfigAccess.lean ====
section
/-!
DEFINITION. CFG_WRITE, CFG_READ and RSP_TAKE (45_transaction_engine.md R303, R304, R307, R308), enabled in every
`fsm` state (R101).
-/

namespace Sys2Proof.Machine

/-- CFG_WRITE idx, value (R307). -/
def execCfgw (idx : BitVec 3) (v : Word) (s : State) : Host.Outcome State Fault Refusal := .next (s.cfgWrite idx v)

/-- CFG_READ idx returns `rdata` and has no side effect (R81, R308). -/
def execCfgr (idx : BitVec 3) (s : State) : Host.Outcome State Fault Refusal := .next (s.give (.rdata (s.cfgRead idx)))

/-- RSP_TAKE (R303, R304). -/
def execTake (s : State) : Host.Outcome State Fault Refusal := .next s.takeResponse

end Sys2Proof.Machine
end

