-- ==== Sys2Proof/Machine/Events.lean ====
section
/-!
DEFINITION. The events of the transport, the time base and the reset source (00_scope.md R10).
-/

namespace Sys2Proof.Machine

/-- TX_ACCEPT (R288). -/
def execTxacc (s : State) : Host.Outcome State Fault Refusal := .next s.txAccept

/-- RX_BYTE(b) (R316). -/
def execRx (b : Byte) (s : State) : Host.Outcome State Fault Refusal := .next (s.pushByte b)

/-- TICK (R290, R293, R294). -/
def execTick (s : State) : Host.Outcome State Fault Refusal := .next s.tick

/-- RESET (R380). -/
def execReset (s : State) : Host.Outcome State Fault Refusal := .next s.doReset

end Sys2Proof.Machine
end

