-- ==== Sys2Proof/Machine/FrameCodec.lean ====
section
/-!
DEFINITION. The frame codec and classifier operations (42_frame_codec.md R180, R182, R185;
44_response_classifier.md R260). They write no state.
-/

namespace Sys2Proof.Machine

/-- CLASSIFY (R260). -/
def execClassify (p : List Byte) (s : State) : Host.Outcome State Fault Refusal := .next (s.give (classifyResult p))

/-- FRAME_ENC (R180). -/
def execFrameEnc (a : DevAddr) (t : List Byte) (s : State) : Host.Outcome State Fault Refusal :=
  .next (s.give (frameEncResult a t))

/-- ADDR_DEC (R182). -/
def execAddrDec (h : Byte) (s : State) : Host.Outcome State Fault Refusal := .next (s.give (addrDecResult h))

/-- SPLIT, the stateless deframer in either build (R185). -/
def execSplit (c : List Byte) (s : State) : Host.Outcome State Fault Refusal := .next (s.give (splitResult c))

end Sys2Proof.Machine
end

