-- ==== Sys2Proof/Machine/Reserved.lean ====
section
/-!
DEFINITION. The reserved op values (30_encoding.md R103): STATUS.BAD_OP <- 1 and no other effect, in every `fsm`
state. One meaning per row of the opcode table; the low op bits a row leaves free change nothing.
-/

namespace Sys2Proof.Machine

/-- RESERVED, match 0x00, mask 0xF0 (R103). -/
def execReserved00 (_lo : BitVec 4) (s : State) : Host.Outcome State Fault Refusal := .next s.setBadOp

/-- RESERVED, match 0x14, mask 0xFC (R103). -/
def execReserved14 (_lo : BitVec 2) (s : State) : Host.Outcome State Fault Refusal := .next s.setBadOp

/-- RESERVED, match 0x18, mask 0xF8 (R103). -/
def execReserved18 (_lo : BitVec 3) (s : State) : Host.Outcome State Fault Refusal := .next s.setBadOp

/-- RESERVED, match 0x28, mask 0xF8 (R103). -/
def execReserved28 (_lo : BitVec 3) (s : State) : Host.Outcome State Fault Refusal := .next s.setBadOp

/-- RESERVED, match 0x38, mask 0xF8 (R103). -/
def execReserved38 (_lo : BitVec 3) (s : State) : Host.Outcome State Fault Refusal := .next s.setBadOp

/-- RESERVED, match 0x41, mask 0xFF (R103). -/
def execReserved41 (s : State) : Host.Outcome State Fault Refusal := .next s.setBadOp

/-- RESERVED, match 0x42, mask 0xFE (R103). -/
def execReserved42 (_lo : BitVec 1) (s : State) : Host.Outcome State Fault Refusal := .next s.setBadOp

/-- RESERVED, match 0x44, mask 0xFC (R103). -/
def execReserved44 (_lo : BitVec 2) (s : State) : Host.Outcome State Fault Refusal := .next s.setBadOp

/-- RESERVED, match 0x48, mask 0xF8 (R103). -/
def execReserved48 (_lo : BitVec 3) (s : State) : Host.Outcome State Fault Refusal := .next s.setBadOp

/-- RESERVED, match 0x5B, mask 0xFF (R103). -/
def execReserved5B (s : State) : Host.Outcome State Fault Refusal := .next s.setBadOp

/-- RESERVED, match 0x5C, mask 0xFC (R103). -/
def execReserved5C (_lo : BitVec 2) (s : State) : Host.Outcome State Fault Refusal := .next s.setBadOp

/-- RESERVED, match 0x60, mask 0xE0 (R103). -/
def execReserved60 (_lo : BitVec 5) (s : State) : Host.Outcome State Fault Refusal := .next s.setBadOp

/-- RESERVED, match 0x80, mask 0x80 (R103). -/
def execReserved80 (_lo : BitVec 7) (s : State) : Host.Outcome State Fault Refusal := .next s.setBadOp

end Sys2Proof.Machine
end

