-- ==== Sys2Proof/Machine/Wire.lean ====
section
/-!
DEFINITION. The table's wire rows as bus events. A byte that arrives is RX_BYTE of that byte; a byte that leaves is
TX_ACCEPT of it, which can happen only when SEND offers exactly that byte; a whole reply frame is the RX_BYTEs of
its bytes in arrival order (30_encoding.md R104, R107, R109, R110, R111, R116; logs 8, 9).
-/

namespace Sys2Proof.Machine

/-- SEND offers the byte `b` at index `i` of the frame. -/
def State.offers (i : BitVec 5) (b : Byte) (s : State) : Bool := s.fsm == .send && s.txIdx == i && s.txData == b

/-- HDR.OUT a: the transport takes the header byte of a frame to device a (R109, R288). Where SEND does not offer that
byte first the event is not enabled and changes nothing. -/
def execHdrOut (a : DevAddr) (s : State) : Host.Outcome State Fault Refusal :=
  .next (if s.offers 0 (outHeader a) then s.txAccept else s)

/-- HDR.IN a, x: the header byte `1aaa_xxxx` of a reply arrives (R110, R316). -/
def execHdrIn (a : DevAddr) (x : BitVec 4) (s : State) : Host.Outcome State Fault Refusal :=
  .next (s.pushByte (inHeader a x))

/-- TERM: the terminator 0xFF arrives, or the transport takes the terminator of the outbound frame (R107, R114). -/
def execTerm (dir : Direction) (s : State) : Host.Outcome State Fault Refusal :=
  match dir with
  | .inbound => .next (s.pushByte terminator)
  | .outbound => .next (if s.offers (s.txLen - 1) terminator then s.txAccept else s)

/-- A reply frame arrives: header, payload, terminator, one RX_BYTE each (R107, R316). -/
def State.receiveFrame (h : Byte) (p : List Byte) (s : State) : State := s.pushBytes (h :: p ++ [terminator])

/-- RSP.ACK: a frame with the payload `41` (R111). -/
def execRspAck (h : Byte) (s : State) : Host.Outcome State Fault Refusal := .next (s.receiveFrame h [0x41])

/-- RSP.COMPLETION: a frame with the payload `51` (R111). -/
def execRspCompletion (h : Byte) (s : State) : Host.Outcome State Fault Refusal := .next (s.receiveFrame h [0x51])

/-- RSP.INQUIRY_REPLY: a frame with the payload `50` and result bytes r (R111). -/
def execRspInquiryReply (h : Byte) (r : List Byte) (s : State) : Host.Outcome State Fault Refusal :=
  .next (s.receiveFrame h (0x50 :: r))

/-- RSP.SYNTAX_ERROR: a frame with the payload `60 02` (R111). -/
def execRspSyntaxError (h : Byte) (s : State) : Host.Outcome State Fault Refusal :=
  .next (s.receiveFrame h [0x60, 0x02])

/-- RSP.NOT_EXECUTABLE: a frame with the payload `61 41` (R111). -/
def execRspNotExecutable (h : Byte) (s : State) : Host.Outcome State Fault Refusal :=
  .next (s.receiveFrame h [0x61, 0x41])

/-- RSP.OTHER: a frame with any other payload (R111, R266). -/
def execRspOther (h : Byte) (p : List Byte) (s : State) : Host.Outcome State Fault Refusal :=
  .next (s.receiveFrame h p)

end Sys2Proof.Machine
end

