-- ==== Sys2Proof/Machine/Dispatch.lean ====
section
/-!
DEFINITION. exec: one arm per instruction, one direct call of its meaning.
-/

namespace Sys2Proof.Machine

def exec (i : Instr) (s : State) : Host.Outcome State Fault Refusal :=
  match i with
  | .reqCmd t => Sys2Proof.Machine.execReqCmd t s
  | .reqCmdWait t => Sys2Proof.Machine.execReqCmdWait t s
  | .reqInq t => Sys2Proof.Machine.execReqInq t s
  | .reqK3 t => Sys2Proof.Machine.execReqK3 t s
  | .cfgw idx v => Sys2Proof.Machine.execCfgw idx v s
  | .cfgr idx => Sys2Proof.Machine.execCfgr idx s
  | .take => Sys2Proof.Machine.execTake s
  | .nibSplit v n => Sys2Proof.Machine.execNibSplit v n s
  | .nibCombine p => Sys2Proof.Machine.execNibCombine p s
  | .nibField p off n => Sys2Proof.Machine.execNibField p off n s
  | .decBool p => Sys2Proof.Machine.execDecBool p s
  | .decNumreg p => Sys2Proof.Machine.execDecNumreg p s
  | .decPantilt p => Sys2Proof.Machine.execDecPantilt p s
  | .decVersion p => Sys2Proof.Machine.execDecVersion p s
  | .classify p => Sys2Proof.Machine.execClassify p s
  | .frameEnc a t => Sys2Proof.Machine.execFrameEnc a t s
  | .addrDec h => Sys2Proof.Machine.execAddrDec h s
  | .split c => Sys2Proof.Machine.execSplit c s
  | .reserved00 lo => Sys2Proof.Machine.execReserved00 lo s
  | .reserved14 lo => Sys2Proof.Machine.execReserved14 lo s
  | .reserved18 lo => Sys2Proof.Machine.execReserved18 lo s
  | .reserved28 lo => Sys2Proof.Machine.execReserved28 lo s
  | .reserved38 lo => Sys2Proof.Machine.execReserved38 lo s
  | .reserved41 => Sys2Proof.Machine.execReserved41 s
  | .reserved42 lo => Sys2Proof.Machine.execReserved42 lo s
  | .reserved44 lo => Sys2Proof.Machine.execReserved44 lo s
  | .reserved48 lo => Sys2Proof.Machine.execReserved48 lo s
  | .reserved5B => Sys2Proof.Machine.execReserved5B s
  | .reserved5C lo => Sys2Proof.Machine.execReserved5C lo s
  | .reserved60 lo => Sys2Proof.Machine.execReserved60 lo s
  | .reserved80 lo => Sys2Proof.Machine.execReserved80 lo s
  | .txacc => Sys2Proof.Machine.execTxacc s
  | .rx b => Sys2Proof.Machine.execRx b s
  | .tick => Sys2Proof.Machine.execTick s
  | .reset => Sys2Proof.Machine.execReset s
  | .cmdPowerOn => Sys2Proof.Machine.execCmdPowerOn s
  | .cmdPowerOff => Sys2Proof.Machine.execCmdPowerOff s
  | .cmdZoomIn sp => Sys2Proof.Machine.execCmdZoomIn sp s
  | .cmdZoomStop => Sys2Proof.Machine.execCmdZoomStop s
  | .cmdMove v1 v2 d1 d2 => Sys2Proof.Machine.execCmdMove v1 v2 d1 d2 s
  | .cmdMoveStop => Sys2Proof.Machine.execCmdMoveStop s
  | .cmdHome => Sys2Proof.Machine.execCmdHome s
  | .cmdPtReset => Sys2Proof.Machine.execCmdPtReset s
  | .cmdPresetRecall ss => Sys2Proof.Machine.execCmdPresetRecall ss s
  | .cmdPresetStore ss => Sys2Proof.Machine.execCmdPresetStore ss s
  | .inqPower => Sys2Proof.Machine.execInqPower s
  | .inqPantiltPos => Sys2Proof.Machine.execInqPantiltPos s
  | .inqVersion => Sys2Proof.Machine.execInqVersion s
  | .inqRedGain => Sys2Proof.Machine.execInqRedGain s
  | .hdrOut a => Sys2Proof.Machine.execHdrOut a s
  | .hdrIn a x => Sys2Proof.Machine.execHdrIn a x s
  | .term dir => Sys2Proof.Machine.execTerm dir s
  | .rspAck h => Sys2Proof.Machine.execRspAck h s
  | .rspCompletion h => Sys2Proof.Machine.execRspCompletion h s
  | .rspInquiryReply h r => Sys2Proof.Machine.execRspInquiryReply h r s
  | .rspSyntaxError h => Sys2Proof.Machine.execRspSyntaxError h s
  | .rspNotExecutable h => Sys2Proof.Machine.execRspNotExecutable h s
  | .rspOther h p => Sys2Proof.Machine.execRspOther h p s

end Sys2Proof.Machine
end

