-- ==== Sys2Proof/Machine/Fetch.lean ====
section
/-!
DEFINITION. Where the next instruction comes from. The block has no program and no program counter (00_scope.md R9,
10_state.md R30): it runs the events its agents bring, in one total order. A held request completes as soon as `fsm`
is IDLE (R101); otherwise the next pending input event happens.
-/

namespace Sys2Proof.Machine

/-- The instruction of a held request. -/
def requestInstr (r : Request) : Instr :=
  match r.kind with
  | .cmd => .reqCmd r.template
  | .cmdWait => .reqCmdWait r.template
  | .inq => .reqInq r.template
  | .reserved3 => .reqK3 r.template

/-- The oldest held request and the state without it, when `fsm` is IDLE (R101, R281, log 2). -/
def State.heldRequest (s : State) : Option (Request × State) :=
  match s.fsm, s.held with
  | .idle, r :: rest => some (r, { s with held := rest })
  | _, _ => none

/-- The next pending input event and the state without it (R9, log 1). -/
def State.nextInput (s : State) : Option (Input × State) :=
  match s.inputs with
  | w :: rest => some (w, { s with inputs := rest })
  | [] => none

/-- The next instruction and the state it runs in, if any event is to happen. -/
def State.fetch (s : State) : Option (Instr × State) :=
  match s.heldRequest with
  | some (r, t) => some (requestInstr r, t)
  | none =>
    match s.nextInput with
    | some (w, t) => some (decode w, t)
    | none => none

/-- The host operation of a table word becomes the next event: it stands first among the inputs, and no request is
held before it. A number wider than the port is not an operation and places nothing. -/
def State.placeWord (s : State) (nbits w : Nat) : State :=
  match unpackHostOp (tableNumber nbits w) with
  | .ok o => { s with inputs := .hostOp o :: s.inputs, held := [] }
  | .error _ => s

end Sys2Proof.Machine
end

