-- ==== Sys2Proof/Machine/Step.lean ====
section
/-!
DEFINITION. One step: one atomic event (00_scope.md R9, 20_memory.md R79). With no event to happen the block stays as
it is, since it has no event of its own (R10, log 1).
-/

namespace Sys2Proof.Machine

def step (s : State) : Host.Outcome State Fault Refusal :=
  match s.fetch with
  | some (i, t) => exec i t
  | none => .next s

/-- `s` with the op-port word of an opcode-table row as its very next event. -/
def State.withFetchWord (s : State) (nbits w : Nat) : State := s.placeWord nbits w

end Sys2Proof.Machine
end

