-- ==== Sys2Proof/Machine/Assembler.lean ====
section
/-!
DEFINITION. Program lines and expansions (30_encoding.md R116, R117): what each line of a program stands for as input
events, and the core instructions a second name stands for.
-/

namespace Sys2Proof.Machine

/-- The core instructions an instruction stands for: a pseudo-instruction is one REQ (R117), a wire byte one event,
a reply frame one RX_BYTE per byte; every other instruction stands for itself. -/
def expand : Instr → List Instr
  | .cmdPowerOn => [.reqCmd powerOnTemplate]
  | .cmdPowerOff => [.reqCmd powerOffTemplate]
  | .cmdZoomIn s => [.reqCmd (zoomInTemplate s)]
  | .cmdZoomStop => [.reqCmd zoomStopTemplate]
  | .cmdMove v1 v2 d1 d2 => [.reqCmd (moveTemplate v1 v2 d1 d2)]
  | .cmdMoveStop => [.reqCmd moveStopTemplate]
  | .cmdHome => [.reqCmd homeTemplate]
  | .cmdPtReset => [.reqCmd ptResetTemplate]
  | .cmdPresetRecall ss => [.reqCmd (presetRecallTemplate ss)]
  | .cmdPresetStore ss => [.reqCmd (presetStoreTemplate ss)]
  | .inqPower => [.reqInq inqPowerTemplate]
  | .inqPantiltPos => [.reqInq inqPantiltPosTemplate]
  | .inqVersion => [.reqInq inqVersionTemplate]
  | .inqRedGain => [.reqInq inqRedGainTemplate]
  | .hdrOut _ => [.txacc]
  | .hdrIn a x => [.rx (inHeader a x)]
  | .term .inbound => [.rx terminator]
  | .term .outbound => [.txacc]
  | .rspAck h => [.rx h, .rx 0x41, .rx terminator]
  | .rspCompletion h => [.rx h, .rx 0x51, .rx terminator]
  | .rspInquiryReply h r => .rx h :: .rx 0x50 :: (r.map .rx ++ [.rx terminator])
  | .rspSyntaxError h => [.rx h, .rx 0x60, .rx 0x02, .rx terminator]
  | .rspNotExecutable h => [.rx h, .rx 0x61, .rx 0x41, .rx terminator]
  | .rspOther h p => .rx h :: (p.map .rx ++ [.rx terminator])
  | .reqCmd t => [.reqCmd t]
  | .reqCmdWait t => [.reqCmdWait t]
  | .reqInq t => [.reqInq t]
  | .reqK3 t => [.reqK3 t]
  | .cfgw idx v => [.cfgw idx v]
  | .cfgr idx => [.cfgr idx]
  | .take => [.take]
  | .nibSplit v n => [.nibSplit v n]
  | .nibCombine p => [.nibCombine p]
  | .nibField p off n => [.nibField p off n]
  | .decBool p => [.decBool p]
  | .decNumreg p => [.decNumreg p]
  | .decPantilt p => [.decPantilt p]
  | .decVersion p => [.decVersion p]
  | .classify p => [.classify p]
  | .frameEnc a t => [.frameEnc a t]
  | .addrDec h => [.addrDec h]
  | .split c => [.split c]
  | .reserved00 lo => [.reserved00 lo]
  | .reserved14 lo => [.reserved14 lo]
  | .reserved18 lo => [.reserved18 lo]
  | .reserved28 lo => [.reserved28 lo]
  | .reserved38 lo => [.reserved38 lo]
  | .reserved41 => [.reserved41]
  | .reserved42 lo => [.reserved42 lo]
  | .reserved44 lo => [.reserved44 lo]
  | .reserved48 lo => [.reserved48 lo]
  | .reserved5B => [.reserved5B]
  | .reserved5C lo => [.reserved5C lo]
  | .reserved60 lo => [.reserved60 lo]
  | .reserved80 lo => [.reserved80 lo]
  | .txacc => [.txacc]
  | .rx b => [.rx b]
  | .tick => [.tick]
  | .reset => [.reset]

/-- A line of a program (R116): an instruction, or one of the agents' lines with its count or byte list. -/
inductive Line
  | instr (i : Instr)
  | rxBytes (bs : List Byte)   -- @RX b0 b1 …
  | txAccepts (n : Nat)        -- @TXACC n
  | ticks (n : Nat)            -- @TICK n
  | resetLine                  -- @RESET
  deriving DecidableEq, Repr

/-- The input events of a line; a term that is not well formed is refused, so nothing is written for it (R236). -/
def Line.inputs : Line → Option (List Input)
  | .instr i => if i.wf then some (encode i) else none
  | .rxBytes bs => some (bs.map .rxByte)
  | .txAccepts n => some (List.replicate n .txAccept)
  | .ticks n => some (List.replicate n .tick)
  | .resetLine => some [.reset]

/-- The input events of a program, in order. A program with a refused line is refused whole: R236 says only that no
REQ is written for that operand, and what becomes of the other lines is the model's choice (log 14). -/
def assemble (ls : List Line) : Option (List Input) := (ls.mapM Line.inputs).map List.flatten

/-- The register names of the assembler (R40, R116). -/
inductive RegName
  | ctrl | timeout | settle | poll | geom | status | rspInfo
  deriving DecidableEq, Repr

/-- The index of a register name (R40). -/
def RegName.index : RegName → BitVec 3
  | .ctrl => 0
  | .timeout => 1
  | .settle => 2
  | .poll => 3
  | .geom => 4
  | .status => 5
  | .rspInfo => 6

end Sys2Proof.Machine
end

