-- ==== Sys2Proof/Machine/Ports.lean ====
section
/-!
DEFINITION. What the outside sees of the block: the port signals (30_encoding.md R101, R104, R105), the four
observed sequences (00_scope.md R13), the reading of a record by request kind (60_exceptions.md R342), and the fixed
order of simultaneous inputs (20_memory.md R80).
-/

namespace Sys2Proof.Machine

/-! ## Port signals -/

/-- `tx_valid`: SEND offers a byte (R104, R381). -/
def State.txValid (s : State) : Bool := s.fsm == .send

/-- `rsp_valid`: DONE offers the record (R105, R381). -/
def State.rspValid (s : State) : Bool := s.fsm == .done

/-- `req_ready`: a REQ can complete only in IDLE (R101, R281). -/
def State.reqReady (s : State) : Bool := s.fsm == .idle

/-! ## Observed sequences -/

/-- The bytes handed to the transport, in order (R13, R72). -/
def State.wire (s : State) : List Byte := s.outputs.filterMap fun | .txByte b => some b | _ => none

/-- The response records delivered to the host, in order (R13, R302). -/
def State.records (s : State) : List Rsp := s.outputs.filterMap fun | .response r => some r | _ => none

/-- The diagnostic events, in order (R13, R106). -/
def State.diags (s : State) : List (DevAddr × BitVec 4 × Vector Byte Config.maxPayload) :=
  s.outputs.filterMap fun | .diag a n p => some (a, n, p) | _ => none

/-- The results of CFG_READ and of the codec operations, in order (R13). -/
def State.results (s : State) : List Result := s.outputs.filterMap fun | .result r => some r | _ => none

/-- A quiescent state (R13): IDLE or DONE, where TX_ACCEPT is not enabled. RESET, which R380 enables in every state,
is left out of the test: read to the letter R13 would make no state quiescent. That is the model's choice (log 23). -/
def State.quiescent (s : State) : Bool := s.fsm == .idle || s.fsm == .done

/-- An input event of the host. -/
def Input.fromHost : Input → Bool
  | .hostOp _ => true
  | .txAccept => false
  | .rxByte _ => false
  | .tick => false
  | .reset => false

/-- The end of a run (R13): a quiescent state in which the host issues no more operations. In the model the host's
operations still to come are the held requests and the host's entries of the pending inputs (logs 1, 2, 23). Bytes
left in the RX FIFO do not matter. -/
def State.atEnd (s : State) : Bool := s.quiescent && s.held.isEmpty && !s.inputs.any Input.fromHost

/-! ## Outcomes by request kind -/

/-- How the host reads a record (R342). -/
inductive Verdict
  | success      -- the inquiry's answer
  | deviceReply  -- a reply from the device to a CMD_WAIT
  | errorReply   -- an error reply to a CMD_WAIT
  | sent         -- a CMD went out
  | failure
  deriving DecidableEq, Repr

/-- R342, request kind by request kind. An error reply is a failure of an INQ and an error reply of a CMD_WAIT. Two
readings are the model's (log 17): a REJECTED CMD, which R342 lists without a word, is a failure, and so is every
combination that R342 does not list. -/
def verdict (k : ReqKind) (r : Rsp) : Verdict :=
  match k, r.status, r.kind with
  | .inq, .resolved, .inquiryReply => .success
  | .cmdWait, .resolved, .acknowledge => .deviceReply
  | .cmdWait, .resolved, .completion => .deviceReply
  | .cmdWait, .resolved, .inquiryReply => .deviceReply
  | .cmdWait, .resolved, .syntaxError => .errorReply
  | .cmdWait, .resolved, .notExecutable => .errorReply
  | .cmd, .sent, _ => .sent
  | _, _, _ => .failure

/-- The result bytes of an InquiryReply record: `payload[1..len-1]` (R264, R302). -/
def Rsp.inquiryResult (r : Rsp) : List Byte := (r.payload.toList.take r.len.toNat).drop 1

/-! ## Simultaneous inputs -/

/-- The inputs one hardware cycle may show at once. -/
structure Cycle where
  reset : Bool
  rx : Option Byte
  txAccept : Bool
  tick : Bool
  host : Option HostOp
  deriving DecidableEq, Repr

/-- The fixed order in which simultaneous inputs take effect: RESET, RX_BYTE, TX_ACCEPT, TICK, host operation (R80). -/
def Cycle.inputs (c : Cycle) : List Input :=
  (if c.reset then [.reset] else []) ++ (c.rx.toList.map .rxByte) ++ (if c.txAccept then [.txAccept] else []) ++
    (if c.tick then [.tick] else []) ++ (c.host.toList.map .hostOp)

/-- The events of one cycle come after those already pending. -/
def State.addCycle (c : Cycle) (s : State) : State := { s with inputs := s.inputs ++ c.inputs }

end Sys2Proof.Machine
end

