-- ==== Sys2Proof/Safety.lean ====
section
/-!
DEFINITION. The terms claims are made in: the invariant of every state a run can reach, the groups of state elements
that frames name, the families of instructions, and runs of several instructions.
-/

namespace Sys2Proof.Machine

/-! ## The invariant -/

/-- A template in the format of R112: 1 to 15 bytes, the last 0xFF and no other. -/
def validTemplate (t : List Byte) : Prop := ∃ b : List Byte, t = b ++ [terminator] ∧ b.length ≤ 14 ∧ terminator ∉ b

/-- The outbound frame that `txbuf` holds: `txbuf[0 .. tx_len-1]` (R35). -/
def State.txFrame (s : State) : List Byte := s.txbuf.toList.take s.txLen.toNat

/-- `fsm` is in a state of a transaction in flight. -/
def Fsm.inFlight (f : Fsm) : Bool := f == .send || f == .settle || f == .wait

/-- What holds after reset and after every event (10_state.md R31 to R49, 42_frame_codec.md R192, R196,
45_transaction_engine.md R283, R290, R294). -/
structure Inv (s : State) : Prop where
  /-- The build parameters are legal (R7). -/
  params : s.params.wf = true
  /-- TARGET_ADDR always holds a legal device address (R42). -/
  target : s.targetAddr ≠ 0
  /-- The nibble widths are legal (R47). -/
  panNib : 1 ≤ s.panNib.toNat ∧ s.panNib.toNat ≤ 8
  tiltNib : 1 ≤ s.tiltNib.toNat ∧ s.tiltNib.toNat ≤ 8
  /-- The RX FIFO holds at most RX_DEPTH bytes (R37). -/
  fifo : s.rxFifo.length ≤ 256
  /-- The fragment buffer holds at most 15 bytes, none of them 0xFF (R31, R192). -/
  fragLength : s.frag.length ≤ 15
  fragClean : terminator ∉ s.frag
  /-- While an oversize fragment is dropped the buffer is empty (R192). -/
  fragDropped : s.fragDiscard = true → s.frag = []
  /-- Without REASSEMBLY the buffer does not exist (R38). -/
  fragAbsent : s.params.reassembly = .off → s.frag = [] ∧ s.fragDiscard = false
  /-- Kind 3 is never latched (R282, R283). -/
  latKind : s.latKind ≠ .reserved3
  /-- A transaction in flight has a legal target (R50). -/
  latAddr : s.fsm.inFlight = true → s.latAddr ≠ 0
  /-- `tx_len` is 0 or 2 to 16, `tx_idx` at most `tx_len`, below it in SEND (R35). -/
  txLen : s.txLen.toNat = 0 ∨ (2 ≤ s.txLen.toNat ∧ s.txLen.toNat ≤ 16)
  txIdx : s.txIdx.toNat ≤ s.txLen.toNat
  sending : s.fsm = .send → s.txIdx.toNat < s.txLen.toNat
  /-- The transmit buffer holds one frame to the latched address (R107, R283). -/
  txFrame : s.txLen ≠ 0 → ∃ t, validTemplate t ∧ s.txFrame = (0x80#8 + s.latAddr.setWidth 8) :: t
  /-- SETTLE is left when the count reaches the latched delay (R290). -/
  settling : s.fsm = .settle → s.settleCnt.toNat < s.latSettle.toNat
  /-- Only the waiting kinds wait, and the poll count stays below the spacing (R291, R294). -/
  waiting : s.fsm = .wait →
    (s.latKind = .cmdWait ∨ s.latKind = .inq) ∧ s.pollCnt.toNat < max s.latPoll.toNat 1
  /-- A record that is not RESOLVED has no kind and no payload (R39). -/
  rspEmpty : s.rsp.status ≠ .resolved → s.rsp.kind = .other ∧ s.rsp.len = 0
  /-- A RESOLVED record has a known kind and a payload of 1 to 14 bytes (R39, R196, R299). -/
  rspFull : s.rsp.status = .resolved → s.rsp.kind ≠ .other ∧ 1 ≤ s.rsp.len.toNat ∧ s.rsp.len.toNat ≤ 14
  /-- Payload bytes past the length read 0x00 (R39). -/
  rspPadding : ∀ i : Fin 14, s.rsp.len.toNat ≤ i.val → s.rsp.payload[i] = 0
  /-- The reason is 0 unless the request was REJECTED (R39, R343). -/
  rspReason : s.rsp.reason ≠ .none ↔ s.rsp.status = .rejected
  /-- The record of a finished transaction names its target (R39, R299). -/
  rspDone : s.fsm = .done → s.rsp.status ≠ .rejected → s.rsp.addr = s.latAddr ∧
    (s.rsp.status = .resolved → resolves s.latKind s.rsp.kind = true)

/-! ## Groups of state elements, for frames -/

/-- The request latches (R34). -/
def SameLatches (s t : State) : Prop :=
  t.latKind = s.latKind ∧ t.latAddr = s.latAddr ∧ t.latTimeout = s.latTimeout ∧ t.latSettle = s.latSettle ∧
    t.latPoll = s.latPoll

/-- The transmit buffer and its indices (R35). -/
def SameTx (s t : State) : Prop := t.txbuf = s.txbuf ∧ t.txLen = s.txLen ∧ t.txIdx = s.txIdx

/-- The counters (R36). -/
def SameCounters (s t : State) : Prop :=
  t.settleCnt = s.settleCnt ∧ t.waitCnt = s.waitCnt ∧ t.pollCnt = s.pollCnt

/-- The receive buffers (R37, R38). -/
def SameRx (s t : State) : Prop := t.rxFifo = s.rxFifo ∧ t.frag = s.frag ∧ t.fragDiscard = s.fragDiscard

/-- The configuration registers 0 to 4 (R40). -/
def SameConfig (s t : State) : Prop :=
  t.targetAddr = s.targetAddr ∧ t.diagEn = s.diagEn ∧ t.timeout = s.timeout ∧ t.settle = s.settle ∧
    t.poll = s.poll ∧ t.panNib = s.panNib ∧ t.tiltNib = s.tiltNib

/-- The sticky flags (R48). -/
def SameFlags (s t : State) : Prop := t.rxOvf = s.rxOvf ∧ t.frameOvf = s.frameOvf ∧ t.badOp = s.badOp

/-- The build parameters and what waits outside the ports. -/
def SamePorts (s t : State) : Prop := t.params = s.params ∧ t.inputs = s.inputs ∧ t.held = s.held

/-! ## Families of instructions -/

/-- The thirteen RESERVED rows (R103). -/
def isReserved : Instr → Bool
  | .reserved00 _ | .reserved14 _ | .reserved18 _ | .reserved28 _ | .reserved38 _ | .reserved41 => true
  | .reserved42 _ | .reserved44 _ | .reserved48 _ | .reserved5B | .reserved5C _ | .reserved60 _ => true
  | .reserved80 _ => true
  | _ => false

/-- The value codec, the decoders, the classifier and the frame codec: operations that only return a result. -/
def isCodec : Instr → Bool
  | .nibSplit _ _ | .nibCombine _ | .nibField _ _ _ | .decBool _ | .decNumreg _ | .decPantilt _ | .decVersion _ => true
  | .classify _ | .frameEnc _ _ | .addrDec _ | .split _ => true
  | _ => false

/-- The instructions that are a REQ: the four REQ rows and the catalog (R117). -/
def isRequest : Instr → Bool
  | .reqCmd _ | .reqCmdWait _ | .reqInq _ | .reqK3 _ => true
  | .cmdPowerOn | .cmdPowerOff | .cmdZoomIn _ | .cmdZoomStop | .cmdMove _ _ _ _ | .cmdMoveStop | .cmdHome => true
  | .cmdPtReset | .cmdPresetRecall _ | .cmdPresetStore _ => true
  | .inqPower | .inqPantiltPos | .inqVersion | .inqRedGain => true
  | .cfgw _ _ | .cfgr _ | .take | .nibSplit _ _ | .nibCombine _ | .nibField _ _ _ | .decBool _ => false
  | .decNumreg _ | .decPantilt _ | .decVersion _ | .classify _ | .frameEnc _ _ | .addrDec _ | .split _ => false
  | .reserved00 _ | .reserved14 _ | .reserved18 _ | .reserved28 _ | .reserved38 _ | .reserved41 => false
  | .reserved42 _ | .reserved44 _ | .reserved48 _ | .reserved5B | .reserved5C _ | .reserved60 _ => false
  | .reserved80 _ | .txacc | .rx _ | .tick | .reset | .hdrOut _ | .hdrIn _ _ | .term _ | .rspAck _ => false
  | .rspCompletion _ | .rspInquiryReply _ _ | .rspSyntaxError _ | .rspNotExecutable _ | .rspOther _ _ => false

/-- The instructions that are a TX_ACCEPT: the event, and the wire bytes that leave the block. -/
def isTransmit : Instr → Bool
  | .txacc | .hdrOut _ => true
  | .term dir => dir == .outbound
  | _ => false

/-- The payload of a whole reply frame and its header, for the RSP rows. -/
def replyFrame : Instr → Option (Byte × List Byte)
  | .rspAck h => some (h, [0x41])
  | .rspCompletion h => some (h, [0x51])
  | .rspInquiryReply h r => some (h, 0x50 :: r)
  | .rspSyntaxError h => some (h, [0x60, 0x02])
  | .rspNotExecutable h => some (h, [0x61, 0x41])
  | .rspOther h p => some (h, p)
  | _ => none

/-- The catalog pseudo-instructions (R222 to R235). -/
def isCatalog : Instr → Bool
  | .cmdPowerOn | .cmdPowerOff | .cmdZoomIn _ | .cmdZoomStop | .cmdMove _ _ _ _ | .cmdMoveStop | .cmdHome => true
  | .cmdPtReset | .cmdPresetRecall _ | .cmdPresetStore _ => true
  | .inqPower | .inqPantiltPos | .inqVersion | .inqRedGain => true
  | .reqCmd _ | .reqCmdWait _ | .reqInq _ | .reqK3 _ => false
  | .cfgw _ _ | .cfgr _ | .take | .nibSplit _ _ | .nibCombine _ | .nibField _ _ _ | .decBool _ => false
  | .decNumreg _ | .decPantilt _ | .decVersion _ | .classify _ | .frameEnc _ _ | .addrDec _ | .split _ => false
  | .reserved00 _ | .reserved14 _ | .reserved18 _ | .reserved28 _ | .reserved38 _ | .reserved41 => false
  | .reserved42 _ | .reserved44 _ | .reserved48 _ | .reserved5B | .reserved5C _ | .reserved60 _ => false
  | .reserved80 _ | .txacc | .rx _ | .tick | .reset | .hdrOut _ | .hdrIn _ _ | .term _ | .rspAck _ => false
  | .rspCompletion _ | .rspInquiryReply _ _ | .rspSyntaxError _ | .rspNotExecutable _ | .rspOther _ _ => false

/-! ## What claims say of bytes, frames and polls, apart from how the machine computes it -/

/-- The value of one digit byte in a DIGIT_MODE (R145). -/
def digitValue (m : DigitMode) (b : Byte) : Nat :=
  match m with
  | .lowNibble => b.toNat % 16
  | .fullByte => b.toNat

/-- The value of a digit string by place: digit i of n weighs 16^(n-1-i) (R73, R145). -/
def placeValue (m : DigitMode) : List Byte → Nat
  | [] => 0
  | b :: p => digitValue m b * 16 ^ p.length + placeValue m p

/-- The payload shapes of R111 and R261. -/
def HasKind (p : List Byte) : Kind → Prop
  | .acknowledge => p = [0x41]
  | .completion => p = [0x51]
  | .inquiryReply => ∃ r, p = 0x50 :: r
  | .syntaxError => p = [0x60, 0x02]
  | .notExecutable => p = [0x61, 0x41]
  | .other => p ≠ [0x41] ∧ p ≠ [0x51] ∧ (∀ r, p ≠ 0x50 :: r) ∧ p ≠ [0x60, 0x02] ∧ p ≠ [0x61, 0x41]

/-- The kinds that end the wait of a request (R299). -/
def EndsWait (k : ReqKind) (c : Kind) : Prop :=
  (k = .cmdWait ∧ c ≠ .other) ∨ (k = .inq ∧ (c = .inquiryReply ∨ c = .syntaxError ∨ c = .notExecutable))

/-- The header of a frame from device `a`: bit 7 is 1 and bits [6:4] are `a` (R110, R183). -/
def FromDevice (a : DevAddr) (h : Byte) : Prop := h.getLsbD 7 = true ∧ h.extractLsb' 4 3 = a

/-- A header and payload that make one whole frame on the wire (R196). -/
def WholeFrame (h : Byte) (p : List Byte) : Prop :=
  h ≠ terminator ∧ terminator ∉ p ∧ 1 ≤ p.length ∧ p.length ≤ 14

/-- The bytes of a frame on the wire (R107). -/
def frameBytes (h : Byte) (p : List Byte) : List Byte := h :: (p ++ [terminator])

/-- The bytes of several frames on the wire, one after the other. -/
def chunkOf (fs : List (Byte × List Byte)) : List Byte := (fs.map fun f => frameBytes f.1 f.2).flatten

/-- The deframer carries nothing from earlier polls; always so with REASSEMBLY = OFF (R38). -/
def State.freshDeframer (s : State) : Prop := s.frag = [] ∧ s.fragDiscard = false

/-- The next TICK polls: WAIT, and the poll count reaches max(lat_poll, 1) (R294). -/
def State.pollDue (s : State) : Prop := s.fsm = .wait ∧ s.pollCnt.toNat + 1 = max s.latPoll.toNat 1

/-- The elapsed count after one more tick, saturating (R16, R294). -/
def State.elapsedNext (s : State) : Nat := min (s.waitCnt.toNat + 1) 4294967295

/-- The event `i` polls in state `s`, and the poll starts from `b`: a due TICK in WAIT (R294), the TICK that ends SETTLE
(R290 to R292), or the TX_ACCEPT of the last byte where there is no settle delay (R288, R289, R292). -/
def PollEvent (i : Instr) (s b : State) : Prop :=
  (i = .tick ∧ s.pollDue ∧ b = { s with pollCnt := 0, waitCnt := BitVec.ofNat 32 s.elapsedNext }) ∨
  (i = .tick ∧ s.fsm = .settle ∧ s.settleCnt.toNat + 1 = s.latSettle.toNat ∧ s.latKind ≠ .cmd ∧
    b = { s with settleCnt := s.latSettle, fsm := .wait, waitCnt := 0, pollCnt := 0 }) ∨
  (i = .txacc ∧ s.fsm = .send ∧ s.txIdx + 1 = s.txLen ∧ s.latSettle = 0 ∧ s.latKind ≠ .cmd ∧
    ∃ j : Fin 16, s.txIdx.toNat = j.val ∧ b = { s with
      txIdx := s.txLen, fsm := .wait, waitCnt := 0, pollCnt := 0, outputs := s.outputs ++ [.txByte s.txbuf[j]] })

/-- The event may poll: no other event does (R77). The bounds are wide enough for every state. -/
def MayPoll (i : Instr) (s : State) : Prop :=
  (i = .tick ∧ s.fsm = .wait ∧ max s.latPoll.toNat 1 ≤ s.pollCnt.toNat + 1) ∨
  (i = .tick ∧ s.fsm = .settle ∧ s.latSettle.toNat ≤ s.settleCnt.toNat + 1 ∧ s.latKind ≠ .cmd) ∨
  (isTransmit i = true ∧ s.fsm = .send ∧ s.txIdx + 1 = s.txLen ∧ s.latSettle = 0 ∧ s.latKind ≠ .cmd)

/-- A whole frame that does not end the wait of a request of kind `r` to device `a`: it comes from another device, or
its kind is not in the resolve set (R299, R311, R312). -/
def Passes (r : ReqKind) (a : DevAddr) (f : Byte × List Byte) : Prop :=
  WholeFrame f.1 f.2 ∧ (FromDevice a f.1 → ∃ k, HasKind f.2 k ∧ ¬ EndsWait r k)

/-- The payload field of a diagnostic event starts with the payload; its other bytes are free values (R106, log 13). -/
def DiagField (p : List Byte) (q : Vector Byte 14) : Prop := q.toList.take p.length = p

/-- The frame is reported to a host that waits for device `a`: an Other frame of that device, while DIAG_EN is `d` = 1
(R310). -/
def IsReported (a : DevAddr) (d : Bool) (f : Byte × List Byte) : Prop :=
  FromDevice a f.1 ∧ HasKind f.2 .other ∧ d = true

/-- The frame neither resolves the wait nor is reported (R310, R311, R312). -/
def State.ignores (s : State) (f : Byte × List Byte) : Prop :=
  Passes s.latKind s.latAddr f ∧ ¬ IsReported s.latAddr s.diagEn f

/-- `ds` are the diagnostic events of the frames `fs`: one for each reported frame, in their order (R297, R310). -/
inductive Reports (a : DevAddr) (d : Bool) : List (Byte × List Byte) → List Output → Prop
  | nil : Reports a d [] []
  | silent {f fs ds} : ¬ IsReported a d f → Reports a d fs ds → Reports a d (f :: fs) ds
  | event {f fs ds} (q : Vector Byte 14) : IsReported a d f → DiagField f.2 q → Reports a d fs ds →
      Reports a d (f :: fs) (.diag a (BitVec.ofNat 4 f.2.length) q :: ds)

/-- The FIFO is empty, or, with nothing carried over, holds ignored frames only. -/
def State.nothingToReport (s : State) : Prop :=
  s.rxFifo = [] ∨
    (s.freshDeframer ∧ ∃ fs : List (Byte × List Byte), (∀ f ∈ fs, s.ignores f) ∧
      s.rxFifo = chunkOf fs)

/-- A record of an outcome without a frame: kind, length, payload all 0 (R39, R300). -/
def emptyRecord (st : Status) (a : DevAddr) (r : Reason) : Rsp :=
  { status := st, kind := .other, addr := a, len := 0, payload := Vector.replicate 14 0, reason := r }

/-- What the timeout gate leaves of a poll that did not resolve: TIMEOUT when the elapsed count has reached the latched
TIMEOUT, and otherwise the wait goes on (R298). -/
def State.afterGate (s : State) : State :=
  if s.latTimeout.toNat ≤ s.waitCnt.toNat then
    { s with
      fsm := .done
      rsp := emptyRecord .timeout s.latAddr .none
      outputs := s.outputs ++ [.response (emptyRecord .timeout s.latAddr .none)] }
  else s

/-- A record of a resolving frame: its kind, the sender, the payload and zeros after it (R39, R297, R300). -/
def ResolvedRecord (r : Rsp) (k : Kind) (a : DevAddr) (p : List Byte) : Prop :=
  r.status = .resolved ∧ r.kind = k ∧ r.addr = a ∧ r.len.toNat = p.length ∧ r.reason = .none ∧
    r.payload.toList.take p.length = p ∧ ∀ i : Fin 14, p.length ≤ i.val → r.payload[i] = 0

/-- In IDLE, `i` is accepted as a request of kind `k` that sends template `t`: the latches, the frame, SEND, and
nothing else changed (R283). -/
def SendsTemplate (s : State) (i : Instr) (k : ReqKind) (t : List Byte) : Prop :=
  ∃ u, exec i s = .next u ∧ u.fsm = .send ∧ u.latKind = k ∧ u.latAddr = s.targetAddr ∧
    u.latTimeout = s.timeout ∧ u.latSettle = s.settle ∧ u.latPoll = s.poll ∧
    u.txFrame = (0x80#8 + s.targetAddr.setWidth 8) :: t ∧ u.txLen.toNat = t.length + 1 ∧ u.txIdx = 0 ∧
    (∀ j : Fin 16, t.length + 1 ≤ j.val → u.txbuf[j] = s.txbuf[j]) ∧
    SameCounters s u ∧ SameRx s u ∧ u.rsp = s.rsp ∧ SameConfig s u ∧ SameFlags s u ∧ SamePorts s u ∧
    u.outputs = s.outputs

/-- `i` returns `r` in its own event and changes nothing else (R115, R163). -/
def Returns (s : State) (i : Instr) (r : Result) : Prop :=
  exec i s = .next { s with outputs := s.outputs ++ [.result r] }

/-! ## Runs -/

/-- The instructions of a list one after the other, up to the first that does not answer a next state. -/
def execAll : List Instr → State → Host.Outcome State Fault Refusal
  | [], s => .next s
  | i :: is, s =>
    match exec i s with
    | .next t => execAll is t
    | .fault r => .fault r
    | .refused r => .refused r

end Sys2Proof.Machine
end

