-- ==== Sys2Proof/Certificates/Slice0/Obligations.lean ====
section
/-!
DEFINITION. The statements for the provers, from the numbered rules of spec/. Each docstring names the rule or the
choice it rests on. A statement over every state holds for every value of the build parameters, which each state
carries (00_scope.md R8).
-/

open Sys2Proof Sys2Proof.Machine

/-! ## Encoding and decoding -/

/-- Decoding the words of a well-formed instruction gives it back; for a second name it gives the instructions the
name stands for (R102, R115, R117). -/
def Obligations.EncodedInstructionsDecodeBack : Prop :=
  ∀ i : Instr, i.wf = true → (encode i).map decode = expand i

/-- The operation map of R102, op value by op value. -/
def Obligations.OperationMapCoversEveryOp : Prop :=
  ∀ w : HostOp, let d := w.data.toList.take w.len.toNat
    (w.op = 0x10 → decode (.hostOp w) = .reqCmd d) ∧
    (w.op = 0x11 → decode (.hostOp w) = .reqCmdWait d) ∧
    (w.op = 0x12 → decode (.hostOp w) = .reqInq d) ∧
    (w.op = 0x13 → decode (.hostOp w) = .reqK3 d) ∧
    (∀ idx : BitVec 3, w.op.toNat = 0x20 + idx.toNat → decode (.hostOp w) = .cfgw idx w.arg) ∧
    (∀ idx : BitVec 3, w.op.toNat = 0x30 + idx.toNat → decode (.hostOp w) = .cfgr idx) ∧
    (w.op = 0x40 → decode (.hostOp w) = .take) ∧
    (w.op = 0x50 → decode (.hostOp w) = .nibSplit w.arg w.len) ∧
    (w.op = 0x51 → decode (.hostOp w) = .nibCombine d) ∧
    (w.op = 0x52 → decode (.hostOp w) = .nibField d (w.arg.extractLsb' 0 4) (w.arg.extractLsb' 4 4)) ∧
    (w.op = 0x53 → decode (.hostOp w) = .decBool d) ∧
    (w.op = 0x54 → decode (.hostOp w) = .decNumreg d) ∧
    (w.op = 0x55 → decode (.hostOp w) = .decPantilt d) ∧
    (w.op = 0x56 → decode (.hostOp w) = .decVersion d) ∧
    (w.op = 0x57 → decode (.hostOp w) = .classify d) ∧
    (w.op = 0x58 → decode (.hostOp w) = .frameEnc (w.arg.extractLsb' 0 3) d) ∧
    (w.op = 0x59 → decode (.hostOp w) = .addrDec (w.arg.extractLsb' 0 8)) ∧
    (w.op = 0x5A → decode (.hostOp w) = .split d) ∧
    (w.op.toNat ≤ 0x0F ∨ (0x14 ≤ w.op.toNat ∧ w.op.toNat ≤ 0x1F) ∨ (0x28 ≤ w.op.toNat ∧ w.op.toNat ≤ 0x2F) ∨
      (0x38 ≤ w.op.toNat ∧ w.op.toNat ≤ 0x3F) ∨ (0x41 ≤ w.op.toNat ∧ w.op.toNat ≤ 0x4F) ∨ 0x5B ≤ w.op.toNat →
        isReserved (decode (.hostOp w)) = true)

/-- Words of programs P1, P2, P3 and P6 of 95_test_vectors.md, as numbers (data, len, arg, op; the packing is log 7). -/
def Obligations.ProgramWordsDecode : Prop :=
  decodeTableWord 40 0x0000000122 = some (.cfgw 2 1) ∧
  decodeTableWord 8 0x36 = some (.cfgr 6) ∧
  decodeTableWord 8 0x40 = some .take ∧
  decodeTableWord 76 0xFF00040940000000012 = some (.reqInq [0x09, 0x04, 0x00, 0xFF]) ∧
  decodeTableWord 76 0xFF04060140000000010 = some (.reqCmd [0x01, 0x06, 0x04, 0xFF]) ∧
  decodeTableWord 44 0x40000123450 = some (.nibSplit 0x1234 4) ∧
  decodeTableWord 60 0x025020000000053 = some (.decBool [0x50, 0x02]) ∧
  decodeTableWord 8 0xFF = some (.reserved80 0x7F)

/-! ## Steps -/

/-- One step is one event: the oldest held request when `fsm` is IDLE, else the next pending input decoded, else
nothing. The queues and the order of a held request before a pending input are the model's choice (logs 1, 2). -/
def Obligations.StepRunsTheDecodedEvent : Prop :=
  ∀ s : State,
    (∀ r rest, s.fsm = .idle → s.held = r :: rest → step s = exec (requestInstr r) { s with held := rest }) ∧
    (∀ w rest, (s.fsm ≠ .idle ∨ s.held = []) → s.inputs = w :: rest →
      step s = exec (decode w) { s with inputs := rest }) ∧
    ((s.fsm ≠ .idle ∨ s.held = []) → s.inputs = [] → step s = .next s)

/-- The word placed for the host is the very next event (logs 1, 7). -/
def Obligations.PlacedWordRunsNext : Prop :=
  ∀ (s : State) (nbits w : Nat) (i : Instr), decodeTableWord nbits w = some i →
    step (s.withFetchWord nbits w) = exec i { s with held := [] }

/-- Whatever is received and whatever the host issues, a step never stops the block (R346). -/
def Obligations.StepAlwaysAnswersANextState : Prop := ∀ s : State, ∃ t, step s = .next t

/-! ## Reset and the invariant -/

/-- RESET gives every element its reset value, in every state; outputs already given stay, and none is added. The value
of TIMEOUT is stated of legal build parameters: outside their bound (log 4) the rules state none. -/
def Obligations.ResetGivesEveryElementItsResetValue : Prop :=
  (∀ s : State, ∃ t, exec .reset s = .next t ∧
    t.fsm = .idle ∧ t.latKind.code = 0 ∧ t.latAddr = 0 ∧ t.latTimeout = 0 ∧ t.latSettle = 0 ∧ t.latPoll = 0 ∧
    t.txbuf = Vector.replicate 16 0 ∧ t.txLen = 0 ∧ t.txIdx = 0 ∧
    t.settleCnt = 0 ∧ t.waitCnt = 0 ∧ t.pollCnt = 0 ∧ t.rxFifo = [] ∧ t.frag = [] ∧ t.fragDiscard = false ∧
    t.rsp = emptyRecord .sent 0 .none ∧
    t.cfgRead 0 = 0x00000001 ∧ (s.params.wf = true → (t.cfgRead 1).toNat = 2 * s.params.ticksPerUnit) ∧
    t.cfgRead 2 = s.params.settleReset ∧ t.cfgRead 3 = s.params.pollReset ∧ t.cfgRead 4 = 0x00000044 ∧
    t.cfgRead 5 = (if s.params.reassembly = .on then 0x100 else 0) + (if s.params.digitMode = .fullByte then 0x200 else 0) ∧
    t.cfgRead 6 = 0 ∧ t.rspValid = false ∧ t.txValid = false ∧
    t.rxOvf = false ∧ t.frameOvf = false ∧ t.badOp = false ∧ t.outputs = s.outputs) ∧
  (∀ c : Cycle, c.reset = true → c.inputs.head? = some .reset)

/-- RESET leaves what stands outside the block: the build parameters, the input events to come and the requests the
host still presents. That the two lists survive is the model's choice (logs 1, 2). -/
def Obligations.ResetLeavesWhatStandsOutsideTheBlock : Prop :=
  ∀ s : State, ∃ t, exec .reset s = .next t ∧ SamePorts s t

/-- The invariant holds after reset: for every block with legal parameters, and for the block of `State.reset`. -/
def Obligations.ResetStateMeetsTheInvariant : Prop :=
  (∀ p : Params, p.wf = true → Inv (State.resetOf p)) ∧ Inv State.reset

/-- Every event keeps the invariant. -/
def Obligations.StepKeepsTheInvariant : Prop := ∀ s t : State, Inv s → step s = .next t → Inv t

/-! ## Flags and registers -/

/-- A reserved op sets BAD_OP and has no other effect (R103). -/
def Obligations.ReservedOpSetsOnlyBadOp : Prop :=
  ∀ (i : Instr) (s : State), isReserved i = true → exec i s = .next { s with badOp := true }

/-- STATUS: every field of the word CFG_READ 5 returns, and the write-1-to-clear of CFG_WRITE 5 (R48). -/
def Obligations.StatusFieldsReadAndClear : Prop :=
  (∀ s : State, ∃ w : Word, Returns s (.cfgr 5) (.rdata w) ∧
    w.extractLsb' 0 3 = s.fsm.code ∧ w.getLsbD 3 = s.rxOvf ∧ w.getLsbD 4 = s.frameOvf ∧ w.getLsbD 5 = s.badOp ∧
    w.extractLsb' 6 2 = 0 ∧ (w.getLsbD 8 = true ↔ s.params.reassembly = .on) ∧
    (w.getLsbD 9 = true ↔ s.params.digitMode = .fullByte) ∧ w.extractLsb' 10 6 = 0 ∧
    (s.rxFifo.length ≤ 256 → (w.extractLsb' 16 9).toNat = s.rxFifo.length) ∧ w.extractLsb' 25 7 = 0) ∧
  (∀ (s : State) (v : Word), exec (.cfgw 5 v) s = .next { s with
    rxOvf := if v.getLsbD 3 then false else s.rxOvf
    frameOvf := if v.getLsbD 4 then false else s.frameOvf
    badOp := if v.getLsbD 5 then false else s.badOp })

/-- RSP_INFO mirrors `rsp`; writes are ignored (R49). -/
def Obligations.RspInfoMirrorsTheRecord : Prop :=
  (∀ s : State, ∃ w : Word, Returns s (.cfgr 6) (.rdata w) ∧
    w.extractLsb' 0 2 = s.rsp.status.code ∧ w.extractLsb' 2 3 = s.rsp.kind.code ∧ w.extractLsb' 5 3 = s.rsp.addr ∧
    w.extractLsb' 8 4 = s.rsp.len ∧ w.extractLsb' 12 4 = s.rsp.reason.code ∧
    (w.getLsbD 16 = true ↔ s.fsm = .done) ∧ w.extractLsb' 17 15 = 0) ∧
  (∀ (s : State) (v : Word), exec (.cfgw 6 v) s = .next s)

/-- CFG_READ of CTRL, TIMEOUT, SETTLE, POLL, GEOM and the reserved index 7 (R41, R47, R308). -/
def Obligations.ConfigReadsReturnTheFields : Prop :=
  ∀ s : State,
    (∃ w : Word, Returns s (.cfgr 0) (.rdata w) ∧ w.extractLsb' 0 3 = s.targetAddr ∧ w.getLsbD 3 = s.diagEn ∧
      w.extractLsb' 4 28 = 0) ∧
    Returns s (.cfgr 1) (.rdata s.timeout) ∧ Returns s (.cfgr 2) (.rdata s.settle) ∧
    Returns s (.cfgr 3) (.rdata s.poll) ∧
    (∃ w : Word, Returns s (.cfgr 4) (.rdata w) ∧ w.extractLsb' 0 4 = s.panNib ∧ w.extractLsb' 4 4 = s.tiltNib ∧
      w.extractLsb' 8 24 = 0) ∧
    Returns s (.cfgr 7) (.rdata 0)

/-- CFG_WRITE of each index, with the rules for illegal field values (R307). -/
def Obligations.ConfigWritesFollowTheirFieldRules : Prop :=
  ∀ (s : State) (v : Word),
    exec (.cfgw 0 v) s = .next { s with
      targetAddr := if v.extractLsb' 0 3 ≠ 0 then v.extractLsb' 0 3 else s.targetAddr
      diagEn := v.getLsbD 3 } ∧
    exec (.cfgw 1 v) s = .next { s with timeout := v } ∧
    exec (.cfgw 2 v) s = .next { s with settle := v } ∧
    exec (.cfgw 3 v) s = .next { s with poll := v } ∧
    exec (.cfgw 4 v) s = .next { s with
      panNib := if 1 ≤ v.toNat % 16 ∧ v.toNat % 16 ≤ 8 then BitVec.ofNat 4 (v.toNat % 16) else s.panNib
      tiltNib := if 1 ≤ v.toNat / 16 % 16 ∧ v.toNat / 16 % 16 ≤ 8 then BitVec.ofNat 4 (v.toNat / 16 % 16)
        else s.tiltNib } ∧
    exec (.cfgw 5 v) s = .next { s with
      rxOvf := if v.getLsbD 3 then false else s.rxOvf
      frameOvf := if v.getLsbD 4 then false else s.frameOvf
      badOp := if v.getLsbD 5 then false else s.badOp } ∧
    exec (.cfgw 6 v) s = .next s ∧
    exec (.cfgw 7 v) s = .next s

/-! ## Requests, catalog, response handshake -/

/-- RSP_TAKE returns DONE to IDLE and does nothing in any other state (R303, R304). -/
def Obligations.TakeReturnsDoneToIdle : Prop :=
  ∀ s : State, (s.fsm = .done → exec .take s = .next { s with fsm := .idle }) ∧
    (s.fsm ≠ .done → exec .take s = .next s)

/-- A REQ of a legal kind with a template in the format of R112 is accepted in IDLE (R283). That `txbuf` above the frame
keeps its bytes is the model's reading of R283 (log 21). -/
def Obligations.ValidRequestIsAccepted : Prop :=
  ∀ (s : State) (k : ReqKind) (t : List Byte), s.fsm = .idle → k ≠ .reserved3 → validTemplate t →
    SendsTemplate s (requestInstr ⟨k, t⟩) k t

/-- A REQ that fails a check is rejected in IDLE with the reason of the first check that fails; nothing is sent and
the latches are not written (R282, R284, R344). -/
def Obligations.InvalidRequestIsRejected : Prop :=
  ∀ (s : State) (k : ReqKind) (t : List Byte) (r : Reason), s.fsm = .idle →
    ((k = .reserved3 ∧ r.code = 1) ∨
     (k ≠ .reserved3 ∧ (t.length = 0 ∨ t.length > 15) ∧ r.code = 2) ∨
     (k ≠ .reserved3 ∧ 1 ≤ t.length ∧ t.length ≤ 15 ∧ t.getLast? ≠ some 0xFF ∧ r.code = 3) ∨
     (k ≠ .reserved3 ∧ t.length ≤ 15 ∧ t.getLast? = some 0xFF ∧ 0xFF ∈ t.dropLast ∧ r.code = 4)) →
    exec (requestInstr ⟨k, t⟩) s = .next { s with
      rsp := emptyRecord .rejected s.targetAddr r
      fsm := .done
      outputs := s.outputs ++ [.response (emptyRecord .rejected s.targetAddr r)] }

/-- Outside IDLE a REQ, or a catalog name of one, changes no element of the block: it is held. The list of held
requests is the model's own (log 2). -/
def Obligations.RequestIsHeldOutsideIdle : Prop :=
  ∀ (s : State) (i : Instr), s.fsm ≠ .idle → isRequest i = true → i.wf = true →
    ∃ r : Request, expand i = [requestInstr r] ∧ exec i s = .next { s with held := s.held ++ [r] }

/-- The ten catalog commands, their templates and operand ranges (R222 to R231, R236), accepted as R283 says. That
`txbuf` above the frame keeps its bytes is the model's reading of R283 (log 21). -/
def Obligations.CatalogCommandsSendTheirTemplates : Prop :=
  (∀ s : State, s.fsm = .idle →
    SendsTemplate s .cmdPowerOn .cmd [0x01, 0x04, 0x00, 0x02, 0xFF] ∧
    SendsTemplate s .cmdPowerOff .cmd [0x01, 0x04, 0x00, 0x03, 0xFF] ∧
    (∀ x : Byte, x.toNat ≤ 7 → SendsTemplate s (.cmdZoomIn x) .cmd [0x01, 0x04, 0x07, 0x20 + x, 0xFF]) ∧
    SendsTemplate s .cmdZoomStop .cmd [0x01, 0x04, 0x07, 0x00, 0xFF] ∧
    (∀ v1 v2 d1 d2 : Byte, v1.toNat ≤ 0x18 → v2.toNat ≤ 0x18 → d1 ≠ 0xFF → d2 ≠ 0xFF →
      SendsTemplate s (.cmdMove v1 v2 d1 d2) .cmd [0x01, 0x06, 0x01, v1, v2, d1, d2, 0xFF]) ∧
    SendsTemplate s .cmdMoveStop .cmd [0x01, 0x06, 0x01, 0x01, 0x01, 0x03, 0x03, 0xFF] ∧
    SendsTemplate s .cmdHome .cmd [0x01, 0x06, 0x04, 0xFF] ∧
    SendsTemplate s .cmdPtReset .cmd [0x01, 0x06, 0x05, 0xFF] ∧
    (∀ x : Byte, x ≠ 0xFF → SendsTemplate s (.cmdPresetRecall x) .cmd [0x01, 0x04, 0x3F, 0x02, x, 0xFF]) ∧
    (∀ x : Byte, x ≠ 0xFF → SendsTemplate s (.cmdPresetStore x) .cmd [0x01, 0x04, 0x3F, 0x01, x, 0xFF])) ∧
  (∀ s : State, exec .cmdMoveStop s = exec (.cmdMove 0x01 0x01 0x03 0x03) s ∧
    (∀ x : Byte, 7 < x.toNat → exec (.cmdZoomIn x) s = .refused .operandOutOfRange) ∧
    (∀ v1 v2 d1 d2 : Byte, 0x18 < v1.toNat ∨ 0x18 < v2.toNat ∨ d1 = 0xFF ∨ d2 = 0xFF →
      exec (.cmdMove v1 v2 d1 d2) s = .refused .operandOutOfRange))

/-- The four catalog inquiries, their templates and reply decoders (R232 to R235), accepted as R283 says. That `txbuf`
above the frame keeps its bytes is the model's reading of R283 (log 21). -/
def Obligations.CatalogInquiriesSendTheirTemplates : Prop :=
  (∀ s : State, s.fsm = .idle →
    SendsTemplate s .inqPower .inq [0x09, 0x04, 0x00, 0xFF] ∧
    SendsTemplate s .inqPantiltPos .inq [0x09, 0x06, 0x12, 0xFF] ∧
    SendsTemplate s .inqVersion .inq [0x09, 0x00, 0x02, 0xFF] ∧
    SendsTemplate s .inqRedGain .inq [0x09, 0x04, 0x43, 0xFF]) ∧
  replyDecoder .inqPower = some .decBool ∧ replyDecoder .inqPantiltPos = some .decPantilt ∧
  replyDecoder .inqVersion = some .decVersion ∧ replyDecoder .inqRedGain = some .decNumreg

/-- A catalog operand outside its range is refused; every admitted one gives a template of 4 to 8 bytes in the format
of R112 (R236). -/
def Obligations.CatalogAdmitsOnlyItsRanges : Prop :=
  (∀ s : State,
    (∀ x : Byte, 7 < x.toNat → exec (.cmdZoomIn x) s = .refused .operandOutOfRange) ∧
    (∀ v1 v2 d1 d2 : Byte, 0x18 < v1.toNat ∨ 0x18 < v2.toNat ∨ d1 = 0xFF ∨ d2 = 0xFF →
      exec (.cmdMove v1 v2 d1 d2) s = .refused .operandOutOfRange) ∧
    exec (.cmdPresetRecall 0xFF) s = .refused .operandOutOfRange ∧
    exec (.cmdPresetStore 0xFF) s = .refused .operandOutOfRange) ∧
  (∀ i : Instr, isCatalog i = true → i.wf = true →
    ∃ k t, expand i = [requestInstr ⟨k, t⟩] ∧ k ≠ .reserved3 ∧ 4 ≤ t.length ∧ t.length ≤ 8 ∧ validTemplate t)

/-- A second name runs as the instructions it stands for, one after the other; a wire byte that leaves the block does
so where SEND offers that byte (R117, logs 8, 9). -/
def Obligations.SecondNamesRunAsTheirExpansions : Prop :=
  ∀ (i : Instr) (s : State), i.wf = true →
    (∀ a, i = .hdrOut a → s.offers 0 (0x80#8 + a.setWidth 8) = true) →
    (i = .term .outbound → s.offers (s.txLen - 1) 0xFF = true) →
    exec i s = execAll (expand i) s

/-! ## Sending and settling -/

/-- TX_ACCEPT in SEND takes `txbuf[tx_idx]`; before the last byte nothing else happens. Outside SEND it has no effect,
which the model reads from R104, R306 and R383 (log 5). -/
def Obligations.TxAcceptTakesTheOfferedByte : Prop :=
  ∀ s : State,
    (∀ j : Fin 16, s.fsm = .send → s.txIdx.toNat = j.val → s.txIdx + 1 ≠ s.txLen →
      exec .txacc s = .next { s with txIdx := s.txIdx + 1, outputs := s.outputs ++ [.txByte s.txbuf[j]] }) ∧
    (s.fsm ≠ .send → exec .txacc s = .next s)

/-- The last byte of a frame starts the settle delay, or, with none, ends a CMD with SENT, or enters WAIT with a poll
at once: where the FIFO is empty or holds only frames to ignore, that poll drains it and finds nothing, and the gate
acts on a window of 0 (R288, R289, R291, R292, R298). -/
def Obligations.LastByteSettlesFinishesOrWaits : Prop :=
  ∀ (s : State) (j : Fin 16), s.fsm = .send → s.txIdx.toNat = j.val → s.txIdx + 1 = s.txLen →
    (s.latSettle ≠ 0 → exec .txacc s = .next { s with
      txIdx := s.txIdx + 1, settleCnt := 0, fsm := .settle, outputs := s.outputs ++ [.txByte s.txbuf[j]] }) ∧
    (s.latSettle = 0 → s.latKind = .cmd → exec .txacc s = .next { s with
      txIdx := s.txIdx + 1, fsm := .done, rsp := emptyRecord .sent s.latAddr .none,
      outputs := s.outputs ++ [.txByte s.txbuf[j], .response (emptyRecord .sent s.latAddr .none)] }) ∧
    (s.latSettle = 0 → s.latKind ≠ .cmd → s.nothingToReport → s.latTimeout ≠ 0 → exec .txacc s = .next { s with
      txIdx := s.txIdx + 1, fsm := .wait, waitCnt := 0, pollCnt := 0, rxFifo := [],
      outputs := s.outputs ++ [.txByte s.txbuf[j]] }) ∧
    (s.latSettle = 0 → s.latKind ≠ .cmd → s.nothingToReport → s.latTimeout = 0 → exec .txacc s = .next { s with
      txIdx := s.txIdx + 1, fsm := .done, waitCnt := 0, pollCnt := 0, rxFifo := [],
      rsp := emptyRecord .timeout s.latAddr .none,
      outputs := s.outputs ++ [.txByte s.txbuf[j], .response (emptyRecord .timeout s.latAddr .none)] })

/-- A frame received before WAIT entry is in the entry poll, and resolves the request if it is the first that qualifies,
even where it answers an earlier one, whatever frames to pass over stand before it in the FIFO and whatever follows it
(R77, R309, R388, R399). -/
def Obligations.StaleFrameResolvesAtWaitEntry : Prop :=
  ∀ (s : State) (fs : List (Byte × List Byte)) (h : Byte) (p rest : List Byte) (k : Kind), s.fsm = .send →
    s.txIdx + 1 = s.txLen → s.latSettle = 0 → s.freshDeframer → (∀ f ∈ fs, Passes s.latKind s.latAddr f) →
    s.rxFifo = chunkOf fs ++ frameBytes h p ++ rest → WholeFrame h p → FromDevice s.latAddr h → HasKind p k →
    EndsWait s.latKind k →
    ∃ u, exec .txacc s = .next u ∧ u.fsm = .done ∧ ResolvedRecord u.rsp k s.latAddr p ∧ u.rxFifo = [] ∧
      u.waitCnt = 0 ∧ u.records = s.records ++ [u.rsp]

/-- Exactly `tx_len` TX_ACCEPTs put the whole frame on the wire, in order (R72, R288, R398). -/
def Obligations.SendPutsTheWholeFrameOnTheWire : Prop :=
  ∀ s : State, Inv s → s.fsm = .send → s.txIdx = 0 →
    (∀ n < s.txLen.toNat, ∃ u, execAll (List.replicate n .txacc) s = .next u ∧ u.fsm = .send ∧
      u.wire = s.wire ++ s.txFrame.take n) ∧
    ∃ u, execAll (List.replicate s.txLen.toNat .txacc) s = .next u ∧ u.fsm ≠ .send ∧
      u.wire = s.wire ++ s.txFrame

/-- TICK in IDLE, SEND or DONE changes no state (R293). -/
def Obligations.TickOutsideSettleAndWaitDoesNothing : Prop :=
  ∀ s : State, s.fsm = .idle ∨ s.fsm = .send ∨ s.fsm = .done → exec .tick s = .next s

/-- The settle delay lasts exactly `lat_settle` ticks. Its last tick ends a CMD with SENT, and for the other kinds
enters WAIT with both counts 0 and a poll at once: it waits on, times out where TIMEOUT is 0, or is resolved by the
first qualifying frame of the FIFO, whatever frames to pass over stand before it (R290, R291, R292, R298). -/
def Obligations.SettleLastsExactlyItsTicks : Prop :=
  ∀ s : State, s.fsm = .settle → s.settleCnt = 0 → s.latSettle ≠ 0 →
    (∀ n < s.latSettle.toNat,
      execAll (List.replicate n .tick) s = .next { s with settleCnt := BitVec.ofNat 32 n }) ∧
    ∃ u, execAll (List.replicate s.latSettle.toNat .tick) s = .next u ∧ u.fsm ≠ .settle ∧
      (s.latKind = .cmd → u = { s with
        settleCnt := s.latSettle, fsm := .done,
        rsp := emptyRecord .sent s.latAddr .none,
        outputs := s.outputs ++ [.response (emptyRecord .sent s.latAddr .none)] }) ∧
      (s.latKind ≠ .cmd → u.waitCnt = 0 ∧ u.pollCnt = 0 ∧ u.rxFifo = [] ∧ (u.fsm = .wait ∨ u.fsm = .done)) ∧
      (s.latKind ≠ .cmd → s.nothingToReport → s.latTimeout ≠ 0 → u = { s with
        settleCnt := s.latSettle, fsm := .wait, waitCnt := 0, pollCnt := 0, rxFifo := [] }) ∧
      (s.latKind ≠ .cmd → s.nothingToReport → s.latTimeout = 0 → u = { s with
        settleCnt := s.latSettle, fsm := .done, waitCnt := 0, pollCnt := 0, rxFifo := [],
        rsp := emptyRecord .timeout s.latAddr .none,
        outputs := s.outputs ++ [.response (emptyRecord .timeout s.latAddr .none)] }) ∧
      (∀ (fs : List (Byte × List Byte)) (h : Byte) (p rest : List Byte) (k : Kind), s.freshDeframer →
        (∀ f ∈ fs, Passes s.latKind s.latAddr f) → s.rxFifo = chunkOf fs ++ frameBytes h p ++ rest →
        WholeFrame h p → FromDevice s.latAddr h → HasKind p k → EndsWait s.latKind k →
        u.fsm = .done ∧ ResolvedRecord u.rsp k s.latAddr p ∧
        ∃ ds, Reports s.latAddr s.diagEn fs ds ∧ u.outputs = s.outputs ++ ds ++ [.response u.rsp])

/-! ## Waiting, polling, the timeout gate -/

/-- Between polls a TICK only counts: nothing is read (R294). -/
def Obligations.TickBetweenPollsOnlyCounts : Prop :=
  ∀ s : State, s.fsm = .wait → s.pollCnt.toNat + 1 < max s.latPoll.toNat 1 →
    exec .tick s = .next { s with waitCnt := BitVec.ofNat 32 s.elapsedNext, pollCnt := s.pollCnt + 1 }

/-- At every poll, the entry poll included, the first qualifying frame of the chunk resolves the wait, whatever frames
to pass over stand before it, whatever follows it and however late the poll is. Frames of other devices and kinds
outside the resolve set do not stop the loop; the Other frames among them are reported, in order, while DIAG_EN is 1;
what follows the qualifying frame is discarded (R296, R297, R299, R309, R349). -/
def Obligations.FirstQualifyingFrameResolves : Prop :=
  ∀ (i : Instr) (s b : State) (fs : List (Byte × List Byte)) (h : Byte) (p rest : List Byte) (k : Kind),
    PollEvent i s b → s.freshDeframer → (∀ f ∈ fs, Passes s.latKind s.latAddr f) →
    s.rxFifo = chunkOf fs ++ frameBytes h p ++ rest → WholeFrame h p → FromDevice s.latAddr h → HasKind p k →
    EndsWait s.latKind k →
    ∃ u ds, exec i s = .next u ∧ u.fsm = .done ∧ ResolvedRecord u.rsp k s.latAddr p ∧
      Reports s.latAddr s.diagEn fs ds ∧ u.outputs = b.outputs ++ ds ++ [.response u.rsp] ∧ u.rxFifo = [] ∧
      SameCounters b u ∧ SameLatches b u ∧ SameTx b u ∧ SameConfig b u ∧ u.rxOvf = b.rxOvf ∧ u.badOp = b.badOp ∧
      SamePorts b u ∧ (rest = [] → u.frag = [] ∧ u.fragDiscard = false ∧ u.frameOvf = b.frameOvf)

/-- Frames from other devices are discarded without a trace: every poll acts as on an empty FIFO (R183, R311). -/
def Obligations.ForeignFramesLeaveNoTrace : Prop :=
  ∀ (i : Instr) (s b : State) (fs : List (Byte × List Byte)), PollEvent i s b → s.freshDeframer →
    (∀ f ∈ fs, WholeFrame f.1 f.2 ∧ ¬ FromDevice s.latAddr f.1) → s.rxFifo = chunkOf fs →
    exec i s = exec i { s with rxFifo := [] } ∧ ∃ u, exec i s = .next u

/-- A chunk in which no frame qualifies is drained: a reply from the target that is known but not in the resolve set is
discarded silently, like a frame of another device; each Other frame is reported while DIAG_EN is 1, in order, and
ignored otherwise. Then the gate acts: the wait goes on while the window is open, and ends in TIMEOUT, after the
reports, at the deadline. This is so at every poll, the entry poll included (R296, R298, R310, R312). The bytes of an
event's field after the payload are free values (log 13). -/
def Obligations.NonResolvingFramesAreReportedOrIgnored : Prop :=
  ∀ (i : Instr) (s b : State) (fs : List (Byte × List Byte)), PollEvent i s b → s.freshDeframer →
    (∀ f ∈ fs, Passes s.latKind s.latAddr f) → s.rxFifo = chunkOf fs →
    ∃ ds, Reports s.latAddr s.diagEn fs ds ∧
      (b.waitCnt.toNat < s.latTimeout.toNat →
        exec i s = .next { b with rxFifo := [], outputs := b.outputs ++ ds }) ∧
      (s.latTimeout.toNat ≤ b.waitCnt.toNat →
        exec i s = .next { b with
          rxFifo := [], fsm := .done, rsp := emptyRecord .timeout s.latAddr .none,
          outputs := b.outputs ++ ds ++ [.response (emptyRecord .timeout s.latAddr .none)] })

/-- A diagnostic event comes before the resolution by a later frame of the chunk, at every poll, whatever frames to
ignore stand around the two and whatever follows (R349, point 4). -/
def Obligations.DiagnosticComesBeforeResolution : Prop :=
  ∀ (i : Instr) (s b : State) (fs gs : List (Byte × List Byte)) (h g : Byte) (p q rest : List Byte) (k : Kind),
    PollEvent i s b → s.freshDeframer → s.diagEn = true → (∀ f ∈ fs ++ gs, s.ignores f) →
    s.rxFifo = chunkOf fs ++ frameBytes h p ++ chunkOf gs ++ frameBytes g q ++ rest → WholeFrame h p →
    WholeFrame g q → FromDevice s.latAddr h → FromDevice s.latAddr g → HasKind p .other → HasKind q k →
    EndsWait s.latKind k →
    ∃ (u : State) (f : Vector Byte 14), exec i s = .next u ∧ u.fsm = .done ∧ ResolvedRecord u.rsp k s.latAddr q ∧
      DiagField p f ∧
      u.outputs = b.outputs ++ [.diag s.latAddr (BitVec.ofNat 4 p.length) f, .response u.rsp]

/-- Polls of a chunk that is empty or holds an oversize or an unterminated fragment, at a due TICK and at WAIT entry: an
empty FIFO leaves only the gate to act (R298); a fragment of more than 15 bytes is dropped and sets FRAME_OVF (R189,
R193); without REASSEMBLY a tail of 2 to 15 bytes is read as a frame, though no 0xFF ended it, whatever frames to pass
over stand before it (R190). And for every chunk, written as its fragments joined by 0xFF, the poll sets FRAME_OVF
exactly where some fragment has more than 15 bytes. -/
def Obligations.PollsHandleEmptyOversizeAndTailChunks : Prop :=
  ∀ (i : Instr) (s b : State), PollEvent i s b →
    (s.rxFifo = [] → exec i s = .next b.afterGate) ∧
    (∀ x : List Byte, s.freshDeframer → terminator ∉ x → 15 < x.length → s.rxFifo = x ++ [terminator] →
      exec i s = .next ({ b with rxFifo := [], frameOvf := true } : State).afterGate) ∧
    (∀ x : List Byte, s.params.reassembly = .off → terminator ∉ x → 15 < x.length → s.rxFifo = x →
      exec i s = .next ({ b with rxFifo := [], frameOvf := true } : State).afterGate) ∧
    (∀ (fs : List (Byte × List Byte)) (h : Byte) (p : List Byte) (k : Kind), s.params.reassembly = .off →
      (∀ f ∈ fs, Passes s.latKind s.latAddr f) → s.rxFifo = chunkOf fs ++ h :: p → WholeFrame h p →
      FromDevice s.latAddr h → HasKind p k → EndsWait s.latKind k →
      ∃ u ds, exec i s = .next u ∧ u.fsm = .done ∧ ResolvedRecord u.rsp k s.latAddr p ∧ u.rxFifo = [] ∧
        Reports s.latAddr s.diagEn fs ds ∧ u.outputs = b.outputs ++ ds ++ [.response u.rsp]) ∧
    (∀ fs : List (List Byte), s.freshDeframer → fs ≠ [] → (∀ f ∈ fs, terminator ∉ f) →
      s.rxFifo = ([terminator] : List Byte).intercalate fs →
      ∃ u, exec i s = .next u ∧ (u.frameOvf = true ↔ s.frameOvf = true ∨ ∃ f ∈ fs, 15 < f.length))

/-- Whatever is received and whatever the host issues meanwhile, a wait ends within TIMEOUT + P − 1 ticks of its entry,
and only in DONE: so for every interleaving of events other than RESET in which that many ticks come (R301, R11), up to
the event that ends the wait the block is in WAIT, and that event leads to DONE. And every poll at or after the deadline
ends the wait, whatever the FIFO and the fragment buffer hold (R298). -/
def Obligations.WaitEndsWithinItsBound : Prop :=
  (∀ (s : State) (es : List Instr), s.fsm = .wait → s.waitCnt = 0 → s.pollCnt = 0 → s.latTimeout ≠ 0 →
    (∀ i ∈ es, i.wf = true ∧ i ≠ .reset) →
    s.latTimeout.toNat + max s.latPoll.toNat 1 - 1 ≤ es.count .tick →
    ∃ n u, (es.take n).count .tick ≤ s.latTimeout.toNat + max s.latPoll.toNat 1 - 1 ∧
      execAll (es.take n) s = .next u ∧ u.fsm = .done ∧
      ∀ m < n, ∃ v, execAll (es.take m) s = .next v ∧ v.fsm = .wait) ∧
  (∀ (i : Instr) (s b : State), PollEvent i s b → s.latTimeout.toNat ≤ b.waitCnt.toNat →
    ∃ u, exec i s = .next u ∧ u.fsm = .done)

/-- With no received byte the TIMEOUT comes at elapsed tick P × ⌈T/P⌉ and not before (R295, R298, R301). -/
def Obligations.SilentWaitTimesOutAtItsExactTick : Prop :=
  ∀ s : State, s.fsm = .wait → s.waitCnt = 0 → s.pollCnt = 0 → s.latTimeout ≠ 0 → s.rxFifo = [] →
    let spacing := max s.latPoll.toNat 1
    let last := spacing * ((s.latTimeout.toNat + spacing - 1) / spacing)
    (∀ n < last, ∃ v, execAll (List.replicate n .tick) s = .next v ∧ v.fsm = .wait ∧ v.records = s.records) ∧
    ∃ u, execAll (List.replicate last .tick) s = .next u ∧ u.fsm = .done ∧
      u.rsp = emptyRecord .timeout s.latAddr .none ∧ u.records = s.records ++ [u.rsp]

/-- An inquiry, from the request to the record: the frame goes out byte by byte, the device's reply arrives, and the
next poll delivers it (R283, R288, R292, R297). The arrival of the frame as one instruction is the model's choice
(log 9). -/
def Obligations.AnsweredInquiryDeliversItsReply : Prop :=
  ∀ (s : State) (t : List Byte) (h : Byte) (r : List Byte), s.fsm = .idle → s.rxFifo = [] →
    s.freshDeframer → s.settle = 0 → s.poll.toNat ≤ 1 → s.timeout ≠ 0 → validTemplate t →
    WholeFrame h (0x50 :: r) → FromDevice s.targetAddr h →
    ∃ u, execAll (.reqInq t :: (List.replicate (t.length + 1) .txacc ++ [.rspInquiryReply h r, .tick])) s = .next u ∧
      u.fsm = .done ∧ ResolvedRecord u.rsp .inquiryReply s.targetAddr (0x50 :: r) ∧ u.rxFifo = [] ∧
      u.wire = s.wire ++ ((0x80#8 + s.targetAddr.setWidth 8) :: t) ∧ u.records = s.records ++ [u.rsp]

/-! ## Receive side and wire -/

/-- RX_BYTE appends the byte in every state, or drops it and sets RX_OVF when the FIFO is full (R316). -/
def Obligations.RxByteIsAppendedOrDropped : Prop :=
  ∀ (s : State) (b : Byte),
    (s.rxFifo.length < 256 → exec (.rx b) s = .next { s with rxFifo := s.rxFifo ++ [b] }) ∧
    (256 ≤ s.rxFifo.length → exec (.rx b) s = .next { s with rxOvf := true })

/-- The wire bytes of the opcode table as events: a header or terminator that arrives is its RX_BYTE, one that leaves
is the TX_ACCEPT of that byte, and where SEND does not offer it nothing happens (R104, R107, R109, R110; log 8). -/
def Obligations.WireBytesActAsTheirEvents : Prop :=
  ∀ s : State,
    (∀ (a : DevAddr) (x : BitVec 4), s.rxFifo.length < 256 →
      exec (.hdrIn a x) s = .next { s with
        rxFifo := s.rxFifo ++ [BitVec.ofNat 8 (0x80 + 16 * a.toNat + x.toNat)] }) ∧
    (s.rxFifo.length < 256 → exec (.term .inbound) s = .next { s with rxFifo := s.rxFifo ++ [0xFF] }) ∧
    (∀ a : DevAddr, s.fsm = .send → s.txIdx = 0 → s.txLen ≠ 1 → s.txbuf[(0 : Fin 16)] = BitVec.ofNat 8 (0x80 + a.toNat) →
      exec (.hdrOut a) s = .next { s with
        txIdx := 1, outputs := s.outputs ++ [.txByte (BitVec.ofNat 8 (0x80 + a.toNat))] }) ∧
    (∀ a : DevAddr, s.fsm = .send → s.txIdx = 0 → s.txbuf[(0 : Fin 16)] = BitVec.ofNat 8 (0x80 + a.toNat) →
      exec (.hdrOut a) s = exec .txacc s) ∧
    (∀ a : DevAddr, s.fsm ≠ .send ∨ s.txIdx ≠ 0 ∨ s.txbuf[(0 : Fin 16)] ≠ BitVec.ofNat 8 (0x80 + a.toNat) →
      exec (.hdrOut a) s = .next s) ∧
    (∀ j : Fin 16, s.fsm = .send → s.txIdx.toNat = j.val → s.txLen.toNat = j.val + 1 → s.txbuf[j] = 0xFF →
      s.latSettle ≠ 0 → exec (.term .outbound) s = .next { s with
        txIdx := s.txLen, settleCnt := 0, fsm := .settle, outputs := s.outputs ++ [.txByte 0xFF] }) ∧
    (∀ j : Fin 16, s.fsm = .send → s.txIdx.toNat = j.val → s.txIdx + 1 = s.txLen → s.txbuf[j] = 0xFF →
      exec (.term .outbound) s = exec .txacc s) ∧
    (s.fsm ≠ .send ∨ s.txIdx + 1 ≠ s.txLen → exec (.term .outbound) s = .next s) ∧
    (∀ j : Fin 16, s.txIdx.toNat = j.val → s.txbuf[j] ≠ 0xFF → exec (.term .outbound) s = .next s)

/-- A whole reply frame arrives as the bytes header, payload, terminator (R107, R111; log 9): as many of them as the
FIFO has room for are appended, and RX_OVF is set where one is dropped (R75, R76). -/
def Obligations.ReplyFramesArriveByteByByte : Prop :=
  ∀ (s : State) (i : Instr) (h : Byte) (p : List Byte), replyFrame i = some (h, p) →
    (s.rxFifo.length + (p.length + 2) ≤ 256 →
      exec i s = .next { s with rxFifo := s.rxFifo ++ (h :: (p ++ [0xFF])) }) ∧
    exec i s = .next { s with
      rxFifo := s.rxFifo ++ (h :: (p ++ [0xFF])).take (256 - s.rxFifo.length)
      rxOvf := s.rxOvf || decide (256 < s.rxFifo.length + (p.length + 2)) }

/-! ## Value codec -/

/-- NIB_SPLIT returns n nibbles, most significant first, and is not valid for a count above 8 (R141, R142). -/
def Obligations.NibSplitReturnsTheNibbles : Prop :=
  ∀ (s : State) (v : Word) (n : BitVec 4),
    (n.toNat ≤ 8 → ∃ bs : List Byte, Returns s (.nibSplit v n) (.nibbles true bs) ∧ bs.length = n.toNat ∧
      ∀ i < n.toNat, bs[i]? = some (BitVec.ofNat 8 (v.toNat / 16 ^ (n.toNat - 1 - i) % 16))) ∧
    (8 < n.toNat → Returns s (.nibSplit v n) (.nibbles false []))

/-- NIB_COMBINE returns the exact base-16 value in either DIGIT_MODE, and is not valid for more than 8 bytes (R145,
R146, R149). -/
def Obligations.NibCombineReturnsThePlaceValue : Prop :=
  ∀ (s : State) (p : List Byte),
    (p.length ≤ 8 → ∃ v : Value, Returns s (.nibCombine p) (.value true v) ∧
      v.toNat = placeValue s.params.digitMode p ∧ (s.params.digitMode = .lowNibble → v.toNat < 2 ^ 32)) ∧
    (8 < p.length → Returns s (.nibCombine p) (.value false 0))

/-- Combining what NIB_SPLIT returned gives the value back, modulo 16^n, in either DIGIT_MODE (R148). -/
def Obligations.SplitThenCombineGivesTheValueBack : Prop :=
  ∀ (s : State) (v : Word) (n : BitVec 4), n.toNat ≤ 8 →
    ∃ (bs : List Byte) (x : Value), Returns s (.nibSplit v n) (.nibbles true bs) ∧
      Returns s (.nibCombine bs) (.value true x) ∧ x.toNat = v.toNat % 16 ^ n.toNat ∧
      (v.toNat < 16 ^ n.toNat → x.toNat = v.toNat)

/-- NIB_FIELD returns the value of the bytes off to off+n−1, and is not valid past the payload's end or above 8
nibbles (R151, R152). -/
def Obligations.NibFieldReturnsTheFieldValue : Prop :=
  ∀ (s : State) (p : List Byte) (off n : BitVec 4),
    (∀ a f b, p = a ++ f ++ b → a.length = off.toNat → f.length = n.toNat → n.toNat ≤ 8 →
      ∃ v : Value, Returns s (.nibField p off n) (.value true v) ∧ v.toNat = placeValue s.params.digitMode f) ∧
    (p.length < off.toNat + n.toNat ∨ 8 < n.toNat → Returns s (.nibField p off n) (.value false 0))

/-- DEC_BOOL matches the whole payload (R154, R155, R156). -/
def Obligations.DecBoolMatchesTheWholePayload : Prop :=
  ∀ (s : State) (p : List Byte), ∃ t : Tri, Returns s (.decBool p) (.tri t) ∧
    (t.code = 1 ↔ p = [0x50, 0x02]) ∧ (t.code = 0 ↔ p = [0x50, 0x03]) ∧
    (t.code = 2 ↔ p ≠ [0x50, 0x02] ∧ p ≠ [0x50, 0x03])

/-- DEC_NUMREG reads bytes 3 and 4 of an InquiryReply of at least 5 bytes (R157, R158). -/
def Obligations.DecNumregReadsBytesThreeAndFour : Prop :=
  ∀ (s : State) (p : List Byte),
    (∀ a b x y rest, p = 0x50 :: a :: b :: x :: y :: rest →
      ∃ v : Value, Returns s (.decNumreg p) (.value true v) ∧
        v.toNat = digitValue s.params.digitMode x * 16 + digitValue s.params.digitMode y) ∧
    (p.length < 5 ∨ p.head? ≠ some 0x50 → Returns s (.decNumreg p) (.value false 0))

/-- DEC_PANTILT reads the pan nibbles, then the tilt nibbles, at the widths of GEOM (R159, and the pseudocode of R160,
which the model follows for 15 data bytes too: log 16). The widths are legal, as the invariant says. -/
def Obligations.DecPantiltReadsThePositions : Prop :=
  ∀ (s : State) (p : List Byte), s.panNib.toNat ≤ 8 → s.tiltNib.toNat ≤ 8 →
    (∀ a b rest, p = 0x50 :: (a ++ b ++ rest) → a.length = s.panNib.toNat → b.length = s.tiltNib.toNat →
      ∃ x y : Value, Returns s (.decPantilt p) (.panTilt true x y) ∧
        x.toNat = placeValue s.params.digitMode a ∧ y.toNat = placeValue s.params.digitMode b) ∧
    (p.length < 1 + s.panNib.toNat + s.tiltNib.toNat ∨ p.head? ≠ some 0x50 →
      Returns s (.decPantilt p) (.panTilt false 0 0))

/-- DEC_VERSION reads vendor, model, rom and socket count of an InquiryReply of at least 8 bytes (R161, R162). -/
def Obligations.DecVersionReadsItsFields : Prop :=
  ∀ (s : State) (p : List Byte),
    (∀ v1 v2 m1 m2 r1 r2 k rest, p = 0x50 :: v1 :: v2 :: m1 :: m2 :: r1 :: r2 :: k :: rest →
      ∃ x y z : Value, Returns s (.decVersion p) (.version true x y z k) ∧
        x.toNat = placeValue s.params.digitMode [v1, v2] ∧ y.toNat = placeValue s.params.digitMode [m1, m2] ∧
        z.toNat = placeValue s.params.digitMode [r1, r2]) ∧
    (p.length < 8 ∨ p.head? ≠ some 0x50 → Returns s (.decVersion p) (.version false 0 0 0 0))

/-! ## Frame codec and classifier -/

/-- FRAME_ENC prepends the address byte and checks nothing (R180, R181). -/
def Obligations.FrameEncPrependsTheAddress : Prop :=
  ∀ (s : State) (a : DevAddr) (t : List Byte), t.length ≤ 15 →
    ∃ (hd : Byte) (n : BitVec 5), Returns s (.frameEnc a t) (.frame (hd :: t) n) ∧ n.toNat = t.length + 1 ∧
      hd.toNat = 0x80 + a.toNat ∧ hd = 0x80#8 ||| a.setWidth 8

/-- ADDR_DEC reads bits [6:4] of a header with bit 7 set, and the two address round trips (R182, R184). -/
def Obligations.AddrDecReadsTheSender : Prop :=
  (∀ (s : State) (h : Byte),
    (0x80 ≤ h.toNat → Returns s (.addrDec h) (.address true (BitVec.ofNat 3 ((h.toNat - 0x80) / 16)))) ∧
    (h.toNat < 0x80 → Returns s (.addrDec h) (.address false 0))) ∧
  (∀ (s : State) (a : DevAddr), a ≠ 0 →
    Returns s (.addrDec (BitVec.ofNat 8 (0x80 + a.toNat * 16))) (.address true a) ∧
    Returns s (.addrDec (BitVec.ofNat 8 (0x80 + a.toNat))) (.address true 0))

/-- SPLIT of a chunk whose fragments are `fs` returns those of 2 to 15 bytes, the last one included though no 0xFF
ended it; empty and header-only fragments are dropped (R185, R186, R187, R188, R190). Every chunk is one of these. -/
def Obligations.SplitKeepsItsFragments : Prop :=
  (∀ (s : State) (fs : List (List Byte)), fs ≠ [] → (∀ f ∈ fs, terminator ∉ f) →
    (([terminator] : List Byte).intercalate fs).length ≤ 15 →
    ∃ (n : BitVec 3) (es : List FrameEntry),
      Returns s (.split (([terminator] : List Byte).intercalate fs)) (.frames n es) ∧ n.toNat = es.length ∧
      es.length ≤ 5 ∧ es.map (fun e => e.header :: e.payload) = fs.filter (fun f => decide (2 ≤ f.length)) ∧
      ∀ e ∈ es, e.plen.toNat = e.payload.length ∧ 1 ≤ e.payload.length ∧ e.payload.length ≤ 14) ∧
  (∀ c : List Byte, ∃ fs : List (List Byte), fs ≠ [] ∧ (∀ f ∈ fs, terminator ∉ f) ∧
    ([terminator] : List Byte).intercalate fs = c)

/-- CLASSIFY gives each payload the kind of its shape, and the length of an inquiry result (R260, R261). -/
def Obligations.ClassifyFollowsThePayloadShape : Prop :=
  (∀ (s : State) (p : List Byte) (k : Kind), HasKind p k → p.length ≤ 15 →
    ∃ n : BitVec 4, Returns s (.classify p) (.kind k n) ∧
      n.toNat = (if k = .inquiryReply then p.length - 1 else 0)) ∧
  (∀ p : List Byte, ∃ k : Kind, HasKind p k ∧ ∀ k', HasKind p k' → k' = k) ∧
  Kind.other.code = 0 ∧ Kind.acknowledge.code = 1 ∧ Kind.completion.code = 2 ∧ Kind.inquiryReply.code = 3 ∧
  Kind.syntaxError.code = 4 ∧ Kind.notExecutable.code = 5

/-- On a chunk that is empty or ends with 0xFF the two deframers give the same frames and the same oversize report,
and nothing is carried over (R195). -/
def Obligations.ReassemblyAgreesOnWholeChunks : Prop :=
  ∀ c : List Byte, (c = [] ∨ c.getLast? = some terminator) →
    (reassembleFrames [] false c).frames = splitFrames c ∧ (reassembleFrames [] false c).frag = [] ∧
    (reassembleFrames [] false c).discard = false ∧ (reassembleFrames [] false c).overflow = hasOversize c

/-- With REASSEMBLY = ON, the deframer does not see where a chunk ends, and every poll, the entry poll included, runs
the FIFO through the carried fragment (R192, R193, R194): it moves the fragment buffer, the drop flag and FRAME_OVF on;
a frame begun in an earlier poll is completed by this one; an unterminated tail stays in the buffer and is no frame;
the sixteenth byte drops the fragment; and a dropped fragment is skipped up to its 0xFF. -/
def Obligations.ReassemblyIgnoresChunkBoundaries : Prop :=
  (∀ (frag : List Byte) (d : Bool) (c c' : List Byte),
    let one := reassembleFrames frag d (c ++ c')
    let first := reassembleFrames frag d c
    let second := reassembleFrames first.frag first.discard c'
    one.frames = first.frames ++ second.frames ∧ one.frag = second.frag ∧ one.discard = second.discard ∧
      one.overflow = (first.overflow || second.overflow)) ∧
  (∀ (i : Instr) (s b : State), PollEvent i s b → s.params.reassembly = .on →
    (∃ u, exec i s = .next u ∧ u.rxFifo = [] ∧
      u.frag = (reassembleFrames s.frag s.fragDiscard s.rxFifo).frag ∧
      u.fragDiscard = (reassembleFrames s.frag s.fragDiscard s.rxFifo).discard ∧
      u.frameOvf = (s.frameOvf || (reassembleFrames s.frag s.fragDiscard s.rxFifo).overflow)) ∧
    (∀ (h : Byte) (p x rest : List Byte) (k : Kind), s.fragDiscard = false → s.frag ++ x = h :: p →
      s.rxFifo = x ++ terminator :: rest → WholeFrame h p → FromDevice s.latAddr h → HasKind p k →
      EndsWait s.latKind k →
      ∃ u, exec i s = .next u ∧ u.fsm = .done ∧ ResolvedRecord u.rsp k s.latAddr p ∧
        u.outputs = b.outputs ++ [.response u.rsp]) ∧
    (∀ x : List Byte, s.fragDiscard = false → terminator ∉ x → s.frag.length + x.length ≤ 15 → s.rxFifo = x →
      exec i s = .next ({ b with rxFifo := [], frag := s.frag ++ x } : State).afterGate) ∧
    (∀ x : List Byte, s.fragDiscard = false → terminator ∉ x → s.frag.length ≤ 15 → 15 < s.frag.length + x.length →
      s.rxFifo = x →
      exec i s = .next ({ b with rxFifo := [], frag := [], fragDiscard := true, frameOvf := true } : State).afterGate) ∧
    (∀ x : List Byte, s.fragDiscard = true → terminator ∉ x → s.rxFifo = x →
      exec i s = .next ({ b with rxFifo := [] } : State).afterGate) ∧
    (∀ x : List Byte, s.fragDiscard = true → terminator ∉ x → s.rxFifo = x ++ [terminator] →
      exec i s = .next ({ b with rxFifo := [], fragDiscard := false } : State).afterGate))

/-! ## Rules of the whole machine -/

/-- The request latches change only where a request is accepted, which copies them from the configuration, or at
RESET (R34, R50, R392). -/
def Obligations.LatchesChangeOnlyAtAcceptance : Prop :=
  ∀ (i : Instr) (s t : State), exec i s = .next t → i ≠ .reset →
    SameLatches s t ∨
    (isRequest i = true ∧ s.fsm = .idle ∧ t.fsm = .send ∧ t.latAddr = s.targetAddr ∧ t.latTimeout = s.timeout ∧
      t.latSettle = s.settle ∧ t.latPoll = s.poll)

/-- `rsp` changes only at a DONE entry or RESET, and each DONE entry delivers exactly one record (R39, R302, R305,
R350). -/
def Obligations.EachDoneEntryDeliversOneRecord : Prop :=
  ∀ (i : Instr) (s t : State), exec i s = .next t →
    t.records = s.records ++ (if s.fsm ≠ .done ∧ t.fsm = .done then [t.rsp] else []) ∧
    (i ≠ .reset → ¬ (s.fsm ≠ .done ∧ t.fsm = .done) → t.rsp = s.rsp)

/-- `fsm` moves only as the table of R280 says, and at RESET to IDLE (R280, R306, R380). -/
def Obligations.FsmMovesOnlyAsTabled : Prop :=
  ∀ (i : Instr) (s t : State), exec i s = .next t → t.fsm ≠ s.fsm →
    (i = .reset ∧ t.fsm = .idle) ∨
    (isRequest i = true ∧ s.fsm = .idle ∧ (t.fsm = .send ∨ t.fsm = .done)) ∨
    (isTransmit i = true ∧ s.fsm = .send ∧ (t.fsm = .settle ∨ t.fsm = .wait ∨ t.fsm = .done)) ∨
    (i = .tick ∧ s.fsm = .settle ∧ (t.fsm = .wait ∨ t.fsm = .done)) ∨
    (i = .tick ∧ s.fsm = .wait ∧ t.fsm = .done) ∨
    (i = .take ∧ s.fsm = .done ∧ t.fsm = .idle)

/-- Bytes no poll has drained stay in the FIFO: only RESET and polls remove a byte, whatever state the event begins or
ends in (R77). -/
def Obligations.UnpolledBytesStayInTheFifo : Prop :=
  ∀ (i : Instr) (s t : State), exec i s = .next t → i ≠ .reset → ¬ MayPoll i s → s.rxFifo <+: t.rxFifo

/-- Only CFG_WRITE and RESET change the configuration, only they clear a sticky flag, and nothing changes the build
parameters (R31, R81, R345). -/
def Obligations.OnlyConfigWritesChangeTheConfiguration : Prop :=
  ∀ (i : Instr) (s t : State), exec i s = .next t →
    t.params = s.params ∧
    (i ≠ .reset → (∀ idx v, i ≠ .cfgw idx v) →
      SameConfig s t ∧ (s.rxOvf = true → t.rxOvf = true) ∧ (s.frameOvf = true → t.frameOvf = true) ∧
        (s.badOp = true → t.badOp = true))
end

