-- ==== Sys2Proof/Laws/Decode.lean ====
section
/-!
SUPPORT. Which row of the op map an op value is in, and what a host operation of that row decodes to (30_encoding.md
R102). Every op value is in exactly one row, so the order of the rows does not matter.
-/

namespace Sys2Proof

/-- Mask and pattern of each row of the op map, in its order; the last row takes what is left. -/
def opRows : List (BitVec 8 × BitVec 8) :=
  [(0xFF, 0x10), (0xFF, 0x11), (0xFF, 0x12), (0xFF, 0x13), (0xF8, 0x20), (0xF8, 0x30), (0xFF, 0x40),
   (0xFF, 0x50), (0xFF, 0x51), (0xFF, 0x52), (0xFF, 0x53), (0xFF, 0x54), (0xFF, 0x55), (0xFF, 0x56),
   (0xFF, 0x57), (0xFF, 0x58), (0xFF, 0x59), (0xFF, 0x5A)] ++
  [(0xF0, 0x00), (0xFC, 0x14), (0xF8, 0x18), (0xF8, 0x28), (0xF8, 0x38), (0xFF, 0x41), (0xFE, 0x42),
   (0xFC, 0x44), (0xF8, 0x48), (0xFF, 0x5B), (0xFC, 0x5C), (0xE0, 0x60), (0x80, 0x80)]

/-- The number of the row an op value is in. -/
def opRow (op : BitVec 8) : Nat := opRows.findIdx fun r => opMatches op r.1 r.2

set_option maxRecDepth 20000 in
/-- Every op value is in exactly one row. -/
theorem opRows_unique : ∀ op : BitVec 8, (opRows.filter fun r => opMatches op r.1 r.2).length = 1 := by decide

/-- The instruction that an operation of row `k` is. -/
def rowInstr (k : Nat) (w : HostOp) : Instr :=
  ([.reqCmd w.bytes,
    .reqCmdWait w.bytes,
    .reqInq w.bytes,
    .reqK3 w.bytes,
    .cfgw (w.op.extractLsb' 0 3) w.arg,
    .cfgr (w.op.extractLsb' 0 3),
    .take,
    .nibSplit w.arg w.len,
    .nibCombine w.bytes,
    .nibField w.bytes (w.arg.extractLsb' 0 4) (w.arg.extractLsb' 4 4),
    .decBool w.bytes,
    .decNumreg w.bytes,
    .decPantilt w.bytes,
    .decVersion w.bytes,
    .classify w.bytes,
    .frameEnc (w.arg.extractLsb' 0 3) w.bytes,
    .addrDec (w.arg.extractLsb' 0 8),
    .split w.bytes,
    .reserved00 (w.op.extractLsb' 0 4),
    .reserved14 (w.op.extractLsb' 0 2),
    .reserved18 (w.op.extractLsb' 0 3),
    .reserved28 (w.op.extractLsb' 0 3),
    .reserved38 (w.op.extractLsb' 0 3),
    .reserved41,
    .reserved42 (w.op.extractLsb' 0 1),
    .reserved44 (w.op.extractLsb' 0 2),
    .reserved48 (w.op.extractLsb' 0 3),
    .reserved5B,
    .reserved5C (w.op.extractLsb' 0 2),
    .reserved60 (w.op.extractLsb' 0 5)] : List Instr).getD k (.reserved80 (w.op.extractLsb' 0 7))

set_option maxRecDepth 20000 in
/-- Of the rows before the last, an op value matches its own row only. -/
theorem opRow_tests : ∀ op : BitVec 8, opRow op < 31 ∧
    (opRows.take 30).map (fun r => opMatches op r.1 r.2) = (List.range 30).map (fun i => i == opRow op) := by decide

/-- Decoding an operation is looking up its row. -/
theorem decodeHostOp_eq_rowInstr (w : HostOp) : decodeHostOp w = rowInstr (opRow w.op) w := by
  obtain ⟨hk, h⟩ := opRow_tests w.op
  generalize opRow w.op = k at hk h
  simp only [opRows, List.cons_append, List.nil_append, List.take_succ_cons, List.take_zero, List.map,
    List.range, List.range.loop, List.cons.injEq] at h
  simp only [decodeHostOp, h]
  interval_cases k <;> rfl

/-- A data operand of at most 15 bytes comes back from the port whole. -/
theorem bytes_of_pad {d : List Byte} (op : BitVec 8) (a : Word) (h : d.length ≤ 15) :
    HostOp.bytes { op := op, arg := a, len := BitVec.ofNat 4 d.length, data := padBytes 15 d } = d := by
  have hl : (BitVec.ofNat 4 d.length).toNat = d.length := by simp; omega
  simp only [HostOp.bytes, hl]
  apply List.ext_getElem
  · simp; omega
  · intro i h1 h2
    simp [padBytes, h2]

end Sys2Proof
end

