-- ==== Sys2Proof/Laws/State.lean ====
section
/-!
SUPPORT. One lemma per field of State for each of its named updates, true by rfl, so that no proof unfolds a record
update.
-/

namespace Sys2Proof.Machine

variable (s : State)

/-! ## emit -/

@[simp] theorem State.emit_params (o : Output) : (s.emit o).params = s.params := rfl
@[simp] theorem State.emit_fsm (o : Output) : (s.emit o).fsm = s.fsm := rfl
@[simp] theorem State.emit_latKind (o : Output) : (s.emit o).latKind = s.latKind := rfl
@[simp] theorem State.emit_latAddr (o : Output) : (s.emit o).latAddr = s.latAddr := rfl
@[simp] theorem State.emit_latTimeout (o : Output) : (s.emit o).latTimeout = s.latTimeout := rfl
@[simp] theorem State.emit_latSettle (o : Output) : (s.emit o).latSettle = s.latSettle := rfl
@[simp] theorem State.emit_latPoll (o : Output) : (s.emit o).latPoll = s.latPoll := rfl
@[simp] theorem State.emit_txbuf (o : Output) : (s.emit o).txbuf = s.txbuf := rfl
@[simp] theorem State.emit_txLen (o : Output) : (s.emit o).txLen = s.txLen := rfl
@[simp] theorem State.emit_txIdx (o : Output) : (s.emit o).txIdx = s.txIdx := rfl
@[simp] theorem State.emit_settleCnt (o : Output) : (s.emit o).settleCnt = s.settleCnt := rfl
@[simp] theorem State.emit_waitCnt (o : Output) : (s.emit o).waitCnt = s.waitCnt := rfl
@[simp] theorem State.emit_pollCnt (o : Output) : (s.emit o).pollCnt = s.pollCnt := rfl
@[simp] theorem State.emit_rxFifo (o : Output) : (s.emit o).rxFifo = s.rxFifo := rfl
@[simp] theorem State.emit_frag (o : Output) : (s.emit o).frag = s.frag := rfl
@[simp] theorem State.emit_fragDiscard (o : Output) : (s.emit o).fragDiscard = s.fragDiscard := rfl
@[simp] theorem State.emit_rsp (o : Output) : (s.emit o).rsp = s.rsp := rfl
@[simp] theorem State.emit_targetAddr (o : Output) : (s.emit o).targetAddr = s.targetAddr := rfl
@[simp] theorem State.emit_diagEn (o : Output) : (s.emit o).diagEn = s.diagEn := rfl
@[simp] theorem State.emit_timeout (o : Output) : (s.emit o).timeout = s.timeout := rfl
@[simp] theorem State.emit_settle (o : Output) : (s.emit o).settle = s.settle := rfl
@[simp] theorem State.emit_poll (o : Output) : (s.emit o).poll = s.poll := rfl
@[simp] theorem State.emit_panNib (o : Output) : (s.emit o).panNib = s.panNib := rfl
@[simp] theorem State.emit_tiltNib (o : Output) : (s.emit o).tiltNib = s.tiltNib := rfl
@[simp] theorem State.emit_rxOvf (o : Output) : (s.emit o).rxOvf = s.rxOvf := rfl
@[simp] theorem State.emit_frameOvf (o : Output) : (s.emit o).frameOvf = s.frameOvf := rfl
@[simp] theorem State.emit_badOp (o : Output) : (s.emit o).badOp = s.badOp := rfl
@[simp] theorem State.emit_inputs (o : Output) : (s.emit o).inputs = s.inputs := rfl
@[simp] theorem State.emit_held (o : Output) : (s.emit o).held = s.held := rfl
@[simp] theorem State.emit_outputs (o : Output) : (s.emit o).outputs = s.outputs ++ [o] := rfl

/-! ## hold -/

@[simp] theorem State.hold_params (r : Request) : (s.hold r).params = s.params := rfl
@[simp] theorem State.hold_fsm (r : Request) : (s.hold r).fsm = s.fsm := rfl
@[simp] theorem State.hold_latKind (r : Request) : (s.hold r).latKind = s.latKind := rfl
@[simp] theorem State.hold_latAddr (r : Request) : (s.hold r).latAddr = s.latAddr := rfl
@[simp] theorem State.hold_latTimeout (r : Request) : (s.hold r).latTimeout = s.latTimeout := rfl
@[simp] theorem State.hold_latSettle (r : Request) : (s.hold r).latSettle = s.latSettle := rfl
@[simp] theorem State.hold_latPoll (r : Request) : (s.hold r).latPoll = s.latPoll := rfl
@[simp] theorem State.hold_txbuf (r : Request) : (s.hold r).txbuf = s.txbuf := rfl
@[simp] theorem State.hold_txLen (r : Request) : (s.hold r).txLen = s.txLen := rfl
@[simp] theorem State.hold_txIdx (r : Request) : (s.hold r).txIdx = s.txIdx := rfl
@[simp] theorem State.hold_settleCnt (r : Request) : (s.hold r).settleCnt = s.settleCnt := rfl
@[simp] theorem State.hold_waitCnt (r : Request) : (s.hold r).waitCnt = s.waitCnt := rfl
@[simp] theorem State.hold_pollCnt (r : Request) : (s.hold r).pollCnt = s.pollCnt := rfl
@[simp] theorem State.hold_rxFifo (r : Request) : (s.hold r).rxFifo = s.rxFifo := rfl
@[simp] theorem State.hold_frag (r : Request) : (s.hold r).frag = s.frag := rfl
@[simp] theorem State.hold_fragDiscard (r : Request) : (s.hold r).fragDiscard = s.fragDiscard := rfl
@[simp] theorem State.hold_rsp (r : Request) : (s.hold r).rsp = s.rsp := rfl
@[simp] theorem State.hold_targetAddr (r : Request) : (s.hold r).targetAddr = s.targetAddr := rfl
@[simp] theorem State.hold_diagEn (r : Request) : (s.hold r).diagEn = s.diagEn := rfl
@[simp] theorem State.hold_timeout (r : Request) : (s.hold r).timeout = s.timeout := rfl
@[simp] theorem State.hold_settle (r : Request) : (s.hold r).settle = s.settle := rfl
@[simp] theorem State.hold_poll (r : Request) : (s.hold r).poll = s.poll := rfl
@[simp] theorem State.hold_panNib (r : Request) : (s.hold r).panNib = s.panNib := rfl
@[simp] theorem State.hold_tiltNib (r : Request) : (s.hold r).tiltNib = s.tiltNib := rfl
@[simp] theorem State.hold_rxOvf (r : Request) : (s.hold r).rxOvf = s.rxOvf := rfl
@[simp] theorem State.hold_frameOvf (r : Request) : (s.hold r).frameOvf = s.frameOvf := rfl
@[simp] theorem State.hold_badOp (r : Request) : (s.hold r).badOp = s.badOp := rfl
@[simp] theorem State.hold_inputs (r : Request) : (s.hold r).inputs = s.inputs := rfl
@[simp] theorem State.hold_held (r : Request) : (s.hold r).held = s.held ++ [r] := rfl
@[simp] theorem State.hold_outputs (r : Request) : (s.hold r).outputs = s.outputs := rfl

/-! ## finish -/

@[simp] theorem State.finish_params (st : Status) (k : Kind) (a : DevAddr) (p : List Byte) (r : Reason) : (s.finish st k a p r).params = s.params := rfl
@[simp] theorem State.finish_fsm (st : Status) (k : Kind) (a : DevAddr) (p : List Byte) (r : Reason) : (s.finish st k a p r).fsm = .done := rfl
@[simp] theorem State.finish_latKind (st : Status) (k : Kind) (a : DevAddr) (p : List Byte) (r : Reason) : (s.finish st k a p r).latKind = s.latKind := rfl
@[simp] theorem State.finish_latAddr (st : Status) (k : Kind) (a : DevAddr) (p : List Byte) (r : Reason) : (s.finish st k a p r).latAddr = s.latAddr := rfl
@[simp] theorem State.finish_latTimeout (st : Status) (k : Kind) (a : DevAddr) (p : List Byte) (r : Reason) : (s.finish st k a p r).latTimeout = s.latTimeout := rfl
@[simp] theorem State.finish_latSettle (st : Status) (k : Kind) (a : DevAddr) (p : List Byte) (r : Reason) : (s.finish st k a p r).latSettle = s.latSettle := rfl
@[simp] theorem State.finish_latPoll (st : Status) (k : Kind) (a : DevAddr) (p : List Byte) (r : Reason) : (s.finish st k a p r).latPoll = s.latPoll := rfl
@[simp] theorem State.finish_txbuf (st : Status) (k : Kind) (a : DevAddr) (p : List Byte) (r : Reason) : (s.finish st k a p r).txbuf = s.txbuf := rfl
@[simp] theorem State.finish_txLen (st : Status) (k : Kind) (a : DevAddr) (p : List Byte) (r : Reason) : (s.finish st k a p r).txLen = s.txLen := rfl
@[simp] theorem State.finish_txIdx (st : Status) (k : Kind) (a : DevAddr) (p : List Byte) (r : Reason) : (s.finish st k a p r).txIdx = s.txIdx := rfl
@[simp] theorem State.finish_settleCnt (st : Status) (k : Kind) (a : DevAddr) (p : List Byte) (r : Reason) : (s.finish st k a p r).settleCnt = s.settleCnt := rfl
@[simp] theorem State.finish_waitCnt (st : Status) (k : Kind) (a : DevAddr) (p : List Byte) (r : Reason) : (s.finish st k a p r).waitCnt = s.waitCnt := rfl
@[simp] theorem State.finish_pollCnt (st : Status) (k : Kind) (a : DevAddr) (p : List Byte) (r : Reason) : (s.finish st k a p r).pollCnt = s.pollCnt := rfl
@[simp] theorem State.finish_rxFifo (st : Status) (k : Kind) (a : DevAddr) (p : List Byte) (r : Reason) : (s.finish st k a p r).rxFifo = s.rxFifo := rfl
@[simp] theorem State.finish_frag (st : Status) (k : Kind) (a : DevAddr) (p : List Byte) (r : Reason) : (s.finish st k a p r).frag = s.frag := rfl
@[simp] theorem State.finish_fragDiscard (st : Status) (k : Kind) (a : DevAddr) (p : List Byte) (r : Reason) : (s.finish st k a p r).fragDiscard = s.fragDiscard := rfl
@[simp] theorem State.finish_rsp (st : Status) (k : Kind) (a : DevAddr) (p : List Byte) (r : Reason) : (s.finish st k a p r).rsp = mkRsp st k a p r := rfl
@[simp] theorem State.finish_targetAddr (st : Status) (k : Kind) (a : DevAddr) (p : List Byte) (r : Reason) : (s.finish st k a p r).targetAddr = s.targetAddr := rfl
@[simp] theorem State.finish_diagEn (st : Status) (k : Kind) (a : DevAddr) (p : List Byte) (r : Reason) : (s.finish st k a p r).diagEn = s.diagEn := rfl
@[simp] theorem State.finish_timeout (st : Status) (k : Kind) (a : DevAddr) (p : List Byte) (r : Reason) : (s.finish st k a p r).timeout = s.timeout := rfl
@[simp] theorem State.finish_settle (st : Status) (k : Kind) (a : DevAddr) (p : List Byte) (r : Reason) : (s.finish st k a p r).settle = s.settle := rfl
@[simp] theorem State.finish_poll (st : Status) (k : Kind) (a : DevAddr) (p : List Byte) (r : Reason) : (s.finish st k a p r).poll = s.poll := rfl
@[simp] theorem State.finish_panNib (st : Status) (k : Kind) (a : DevAddr) (p : List Byte) (r : Reason) : (s.finish st k a p r).panNib = s.panNib := rfl
@[simp] theorem State.finish_tiltNib (st : Status) (k : Kind) (a : DevAddr) (p : List Byte) (r : Reason) : (s.finish st k a p r).tiltNib = s.tiltNib := rfl
@[simp] theorem State.finish_rxOvf (st : Status) (k : Kind) (a : DevAddr) (p : List Byte) (r : Reason) : (s.finish st k a p r).rxOvf = s.rxOvf := rfl
@[simp] theorem State.finish_frameOvf (st : Status) (k : Kind) (a : DevAddr) (p : List Byte) (r : Reason) : (s.finish st k a p r).frameOvf = s.frameOvf := rfl
@[simp] theorem State.finish_badOp (st : Status) (k : Kind) (a : DevAddr) (p : List Byte) (r : Reason) : (s.finish st k a p r).badOp = s.badOp := rfl
@[simp] theorem State.finish_inputs (st : Status) (k : Kind) (a : DevAddr) (p : List Byte) (r : Reason) : (s.finish st k a p r).inputs = s.inputs := rfl
@[simp] theorem State.finish_held (st : Status) (k : Kind) (a : DevAddr) (p : List Byte) (r : Reason) : (s.finish st k a p r).held = s.held := rfl
@[simp] theorem State.finish_outputs (st : Status) (k : Kind) (a : DevAddr) (p : List Byte) (r : Reason) : (s.finish st k a p r).outputs = s.outputs ++ [.response (mkRsp st k a p r)] := rfl

/-! ## accept -/

@[simp] theorem State.accept_params (k : ReqKind) (t : List Byte) : (s.accept k t).params = s.params := rfl
@[simp] theorem State.accept_fsm (k : ReqKind) (t : List Byte) : (s.accept k t).fsm = .send := rfl
@[simp] theorem State.accept_latKind (k : ReqKind) (t : List Byte) : (s.accept k t).latKind = k := rfl
@[simp] theorem State.accept_latAddr (k : ReqKind) (t : List Byte) : (s.accept k t).latAddr = s.targetAddr := rfl
@[simp] theorem State.accept_latTimeout (k : ReqKind) (t : List Byte) : (s.accept k t).latTimeout = s.timeout := rfl
@[simp] theorem State.accept_latSettle (k : ReqKind) (t : List Byte) : (s.accept k t).latSettle = s.settle := rfl
@[simp] theorem State.accept_latPoll (k : ReqKind) (t : List Byte) : (s.accept k t).latPoll = s.poll := rfl
@[simp] theorem State.accept_txbuf (k : ReqKind) (t : List Byte) : (s.accept k t).txbuf = overlay (encodeFrame s.targetAddr t) s.txbuf := rfl
@[simp] theorem State.accept_txLen (k : ReqKind) (t : List Byte) : (s.accept k t).txLen = BitVec.ofNat 5 (t.length + 1) := rfl
@[simp] theorem State.accept_txIdx (k : ReqKind) (t : List Byte) : (s.accept k t).txIdx = 0 := rfl
@[simp] theorem State.accept_settleCnt (k : ReqKind) (t : List Byte) : (s.accept k t).settleCnt = s.settleCnt := rfl
@[simp] theorem State.accept_waitCnt (k : ReqKind) (t : List Byte) : (s.accept k t).waitCnt = s.waitCnt := rfl
@[simp] theorem State.accept_pollCnt (k : ReqKind) (t : List Byte) : (s.accept k t).pollCnt = s.pollCnt := rfl
@[simp] theorem State.accept_rxFifo (k : ReqKind) (t : List Byte) : (s.accept k t).rxFifo = s.rxFifo := rfl
@[simp] theorem State.accept_frag (k : ReqKind) (t : List Byte) : (s.accept k t).frag = s.frag := rfl
@[simp] theorem State.accept_fragDiscard (k : ReqKind) (t : List Byte) : (s.accept k t).fragDiscard = s.fragDiscard := rfl
@[simp] theorem State.accept_rsp (k : ReqKind) (t : List Byte) : (s.accept k t).rsp = s.rsp := rfl
@[simp] theorem State.accept_targetAddr (k : ReqKind) (t : List Byte) : (s.accept k t).targetAddr = s.targetAddr := rfl
@[simp] theorem State.accept_diagEn (k : ReqKind) (t : List Byte) : (s.accept k t).diagEn = s.diagEn := rfl
@[simp] theorem State.accept_timeout (k : ReqKind) (t : List Byte) : (s.accept k t).timeout = s.timeout := rfl
@[simp] theorem State.accept_settle (k : ReqKind) (t : List Byte) : (s.accept k t).settle = s.settle := rfl
@[simp] theorem State.accept_poll (k : ReqKind) (t : List Byte) : (s.accept k t).poll = s.poll := rfl
@[simp] theorem State.accept_panNib (k : ReqKind) (t : List Byte) : (s.accept k t).panNib = s.panNib := rfl
@[simp] theorem State.accept_tiltNib (k : ReqKind) (t : List Byte) : (s.accept k t).tiltNib = s.tiltNib := rfl
@[simp] theorem State.accept_rxOvf (k : ReqKind) (t : List Byte) : (s.accept k t).rxOvf = s.rxOvf := rfl
@[simp] theorem State.accept_frameOvf (k : ReqKind) (t : List Byte) : (s.accept k t).frameOvf = s.frameOvf := rfl
@[simp] theorem State.accept_badOp (k : ReqKind) (t : List Byte) : (s.accept k t).badOp = s.badOp := rfl
@[simp] theorem State.accept_inputs (k : ReqKind) (t : List Byte) : (s.accept k t).inputs = s.inputs := rfl
@[simp] theorem State.accept_held (k : ReqKind) (t : List Byte) : (s.accept k t).held = s.held := rfl
@[simp] theorem State.accept_outputs (k : ReqKind) (t : List Byte) : (s.accept k t).outputs = s.outputs := rfl

/-! ## setBadOp -/

@[simp] theorem State.setBadOp_params : s.setBadOp.params = s.params := rfl
@[simp] theorem State.setBadOp_fsm : s.setBadOp.fsm = s.fsm := rfl
@[simp] theorem State.setBadOp_latKind : s.setBadOp.latKind = s.latKind := rfl
@[simp] theorem State.setBadOp_latAddr : s.setBadOp.latAddr = s.latAddr := rfl
@[simp] theorem State.setBadOp_latTimeout : s.setBadOp.latTimeout = s.latTimeout := rfl
@[simp] theorem State.setBadOp_latSettle : s.setBadOp.latSettle = s.latSettle := rfl
@[simp] theorem State.setBadOp_latPoll : s.setBadOp.latPoll = s.latPoll := rfl
@[simp] theorem State.setBadOp_txbuf : s.setBadOp.txbuf = s.txbuf := rfl
@[simp] theorem State.setBadOp_txLen : s.setBadOp.txLen = s.txLen := rfl
@[simp] theorem State.setBadOp_txIdx : s.setBadOp.txIdx = s.txIdx := rfl
@[simp] theorem State.setBadOp_settleCnt : s.setBadOp.settleCnt = s.settleCnt := rfl
@[simp] theorem State.setBadOp_waitCnt : s.setBadOp.waitCnt = s.waitCnt := rfl
@[simp] theorem State.setBadOp_pollCnt : s.setBadOp.pollCnt = s.pollCnt := rfl
@[simp] theorem State.setBadOp_rxFifo : s.setBadOp.rxFifo = s.rxFifo := rfl
@[simp] theorem State.setBadOp_frag : s.setBadOp.frag = s.frag := rfl
@[simp] theorem State.setBadOp_fragDiscard : s.setBadOp.fragDiscard = s.fragDiscard := rfl
@[simp] theorem State.setBadOp_rsp : s.setBadOp.rsp = s.rsp := rfl
@[simp] theorem State.setBadOp_targetAddr : s.setBadOp.targetAddr = s.targetAddr := rfl
@[simp] theorem State.setBadOp_diagEn : s.setBadOp.diagEn = s.diagEn := rfl
@[simp] theorem State.setBadOp_timeout : s.setBadOp.timeout = s.timeout := rfl
@[simp] theorem State.setBadOp_settle : s.setBadOp.settle = s.settle := rfl
@[simp] theorem State.setBadOp_poll : s.setBadOp.poll = s.poll := rfl
@[simp] theorem State.setBadOp_panNib : s.setBadOp.panNib = s.panNib := rfl
@[simp] theorem State.setBadOp_tiltNib : s.setBadOp.tiltNib = s.tiltNib := rfl
@[simp] theorem State.setBadOp_rxOvf : s.setBadOp.rxOvf = s.rxOvf := rfl
@[simp] theorem State.setBadOp_frameOvf : s.setBadOp.frameOvf = s.frameOvf := rfl
@[simp] theorem State.setBadOp_badOp : s.setBadOp.badOp = true := rfl
@[simp] theorem State.setBadOp_inputs : s.setBadOp.inputs = s.inputs := rfl
@[simp] theorem State.setBadOp_held : s.setBadOp.held = s.held := rfl
@[simp] theorem State.setBadOp_outputs : s.setBadOp.outputs = s.outputs := rfl

/-! ## setRxOvf -/

@[simp] theorem State.setRxOvf_params : s.setRxOvf.params = s.params := rfl
@[simp] theorem State.setRxOvf_fsm : s.setRxOvf.fsm = s.fsm := rfl
@[simp] theorem State.setRxOvf_latKind : s.setRxOvf.latKind = s.latKind := rfl
@[simp] theorem State.setRxOvf_latAddr : s.setRxOvf.latAddr = s.latAddr := rfl
@[simp] theorem State.setRxOvf_latTimeout : s.setRxOvf.latTimeout = s.latTimeout := rfl
@[simp] theorem State.setRxOvf_latSettle : s.setRxOvf.latSettle = s.latSettle := rfl
@[simp] theorem State.setRxOvf_latPoll : s.setRxOvf.latPoll = s.latPoll := rfl
@[simp] theorem State.setRxOvf_txbuf : s.setRxOvf.txbuf = s.txbuf := rfl
@[simp] theorem State.setRxOvf_txLen : s.setRxOvf.txLen = s.txLen := rfl
@[simp] theorem State.setRxOvf_txIdx : s.setRxOvf.txIdx = s.txIdx := rfl
@[simp] theorem State.setRxOvf_settleCnt : s.setRxOvf.settleCnt = s.settleCnt := rfl
@[simp] theorem State.setRxOvf_waitCnt : s.setRxOvf.waitCnt = s.waitCnt := rfl
@[simp] theorem State.setRxOvf_pollCnt : s.setRxOvf.pollCnt = s.pollCnt := rfl
@[simp] theorem State.setRxOvf_rxFifo : s.setRxOvf.rxFifo = s.rxFifo := rfl
@[simp] theorem State.setRxOvf_frag : s.setRxOvf.frag = s.frag := rfl
@[simp] theorem State.setRxOvf_fragDiscard : s.setRxOvf.fragDiscard = s.fragDiscard := rfl
@[simp] theorem State.setRxOvf_rsp : s.setRxOvf.rsp = s.rsp := rfl
@[simp] theorem State.setRxOvf_targetAddr : s.setRxOvf.targetAddr = s.targetAddr := rfl
@[simp] theorem State.setRxOvf_diagEn : s.setRxOvf.diagEn = s.diagEn := rfl
@[simp] theorem State.setRxOvf_timeout : s.setRxOvf.timeout = s.timeout := rfl
@[simp] theorem State.setRxOvf_settle : s.setRxOvf.settle = s.settle := rfl
@[simp] theorem State.setRxOvf_poll : s.setRxOvf.poll = s.poll := rfl
@[simp] theorem State.setRxOvf_panNib : s.setRxOvf.panNib = s.panNib := rfl
@[simp] theorem State.setRxOvf_tiltNib : s.setRxOvf.tiltNib = s.tiltNib := rfl
@[simp] theorem State.setRxOvf_rxOvf : s.setRxOvf.rxOvf = true := rfl
@[simp] theorem State.setRxOvf_frameOvf : s.setRxOvf.frameOvf = s.frameOvf := rfl
@[simp] theorem State.setRxOvf_badOp : s.setRxOvf.badOp = s.badOp := rfl
@[simp] theorem State.setRxOvf_inputs : s.setRxOvf.inputs = s.inputs := rfl
@[simp] theorem State.setRxOvf_held : s.setRxOvf.held = s.held := rfl
@[simp] theorem State.setRxOvf_outputs : s.setRxOvf.outputs = s.outputs := rfl

/-! ## noteFrameOvf -/

@[simp] theorem State.noteFrameOvf_params (d : Bool) : (s.noteFrameOvf d).params = s.params := rfl
@[simp] theorem State.noteFrameOvf_fsm (d : Bool) : (s.noteFrameOvf d).fsm = s.fsm := rfl
@[simp] theorem State.noteFrameOvf_latKind (d : Bool) : (s.noteFrameOvf d).latKind = s.latKind := rfl
@[simp] theorem State.noteFrameOvf_latAddr (d : Bool) : (s.noteFrameOvf d).latAddr = s.latAddr := rfl
@[simp] theorem State.noteFrameOvf_latTimeout (d : Bool) : (s.noteFrameOvf d).latTimeout = s.latTimeout := rfl
@[simp] theorem State.noteFrameOvf_latSettle (d : Bool) : (s.noteFrameOvf d).latSettle = s.latSettle := rfl
@[simp] theorem State.noteFrameOvf_latPoll (d : Bool) : (s.noteFrameOvf d).latPoll = s.latPoll := rfl
@[simp] theorem State.noteFrameOvf_txbuf (d : Bool) : (s.noteFrameOvf d).txbuf = s.txbuf := rfl
@[simp] theorem State.noteFrameOvf_txLen (d : Bool) : (s.noteFrameOvf d).txLen = s.txLen := rfl
@[simp] theorem State.noteFrameOvf_txIdx (d : Bool) : (s.noteFrameOvf d).txIdx = s.txIdx := rfl
@[simp] theorem State.noteFrameOvf_settleCnt (d : Bool) : (s.noteFrameOvf d).settleCnt = s.settleCnt := rfl
@[simp] theorem State.noteFrameOvf_waitCnt (d : Bool) : (s.noteFrameOvf d).waitCnt = s.waitCnt := rfl
@[simp] theorem State.noteFrameOvf_pollCnt (d : Bool) : (s.noteFrameOvf d).pollCnt = s.pollCnt := rfl
@[simp] theorem State.noteFrameOvf_rxFifo (d : Bool) : (s.noteFrameOvf d).rxFifo = s.rxFifo := rfl
@[simp] theorem State.noteFrameOvf_frag (d : Bool) : (s.noteFrameOvf d).frag = s.frag := rfl
@[simp] theorem State.noteFrameOvf_fragDiscard (d : Bool) : (s.noteFrameOvf d).fragDiscard = s.fragDiscard := rfl
@[simp] theorem State.noteFrameOvf_rsp (d : Bool) : (s.noteFrameOvf d).rsp = s.rsp := rfl
@[simp] theorem State.noteFrameOvf_targetAddr (d : Bool) : (s.noteFrameOvf d).targetAddr = s.targetAddr := rfl
@[simp] theorem State.noteFrameOvf_diagEn (d : Bool) : (s.noteFrameOvf d).diagEn = s.diagEn := rfl
@[simp] theorem State.noteFrameOvf_timeout (d : Bool) : (s.noteFrameOvf d).timeout = s.timeout := rfl
@[simp] theorem State.noteFrameOvf_settle (d : Bool) : (s.noteFrameOvf d).settle = s.settle := rfl
@[simp] theorem State.noteFrameOvf_poll (d : Bool) : (s.noteFrameOvf d).poll = s.poll := rfl
@[simp] theorem State.noteFrameOvf_panNib (d : Bool) : (s.noteFrameOvf d).panNib = s.panNib := rfl
@[simp] theorem State.noteFrameOvf_tiltNib (d : Bool) : (s.noteFrameOvf d).tiltNib = s.tiltNib := rfl
@[simp] theorem State.noteFrameOvf_rxOvf (d : Bool) : (s.noteFrameOvf d).rxOvf = s.rxOvf := rfl
@[simp] theorem State.noteFrameOvf_frameOvf (d : Bool) : (s.noteFrameOvf d).frameOvf = (s.frameOvf || d) := rfl
@[simp] theorem State.noteFrameOvf_badOp (d : Bool) : (s.noteFrameOvf d).badOp = s.badOp := rfl
@[simp] theorem State.noteFrameOvf_inputs (d : Bool) : (s.noteFrameOvf d).inputs = s.inputs := rfl
@[simp] theorem State.noteFrameOvf_held (d : Bool) : (s.noteFrameOvf d).held = s.held := rfl
@[simp] theorem State.noteFrameOvf_outputs (d : Bool) : (s.noteFrameOvf d).outputs = s.outputs := rfl

end Sys2Proof.Machine
end

