-- ==== Sys2Proof/Laws/Ops.lean ====
section
/-!
SUPPORT. One lemma for each shared operation that says everything it can do; later proofs cite these instead of
unfolding the operations.
-/

namespace Sys2Proof.Machine

variable (s : State)

/-! ## Receive side -/

theorem pushByte_of_room {s : State} {b : Byte} (h : s.rxFifo.length < 256) :
    s.pushByte b = { s with rxFifo := s.rxFifo ++ [b] } := by
  simp [State.pushByte, Config.rxDepth, h]

theorem pushByte_of_full {s : State} {b : Byte} (h : 256 ≤ s.rxFifo.length) :
    s.pushByte b = { s with rxOvf := true } := by
  have : ¬ s.rxFifo.length < 256 := by omega
  simp [State.pushByte, Config.rxDepth, this, State.setRxOvf]

/-- Bytes that arrive are appended as far as they fit; nothing but the FIFO and RX_OVF can change. -/
theorem pushBytes_cases (bs : List Byte) :
    ∃ (kept : List Byte) (o : Bool),
      s.pushBytes bs = { s with rxFifo := s.rxFifo ++ kept, rxOvf := s.rxOvf || o } ∧
        (s.rxFifo.length ≤ 256 → (s.rxFifo ++ kept).length ≤ 256) := by
  induction bs generalizing s with
  | nil => exact ⟨[], false, by simp [State.pushBytes], by simp⟩
  | cons b bs ih =>
    obtain ⟨kept, o, h, hl⟩ := ih (s.pushByte b)
    have h' : s.pushBytes (b :: bs) = (s.pushByte b).pushBytes bs := rfl
    by_cases hr : s.rxFifo.length < 256
    · rw [pushByte_of_room hr] at h hl
      exact ⟨b :: kept, o, by rw [h', pushByte_of_room hr, h]; simp, fun _ => by
        have := hl (by simp; omega)
        simpa [Nat.add_assoc, Nat.add_comm] using this⟩
    · rw [pushByte_of_full (by omega)] at h hl
      exact ⟨kept, true, by rw [h', pushByte_of_full (by omega), h]; simp, hl⟩

/-- With room for all of them, every byte is appended in order. -/
theorem pushBytes_of_room {s : State} {bs : List Byte} (h : s.rxFifo.length + bs.length ≤ 256) :
    s.pushBytes bs = { s with rxFifo := s.rxFifo ++ bs } := by
  induction bs generalizing s with
  | nil => simp [State.pushBytes]
  | cons b bs ih =>
    simp only [List.length_cons] at h
    have h' : s.pushBytes (b :: bs) = (s.pushByte b).pushBytes bs := rfl
    rw [h', pushByte_of_room (by omega), ih (by simp; omega)]
    simp

/-- What the arrival of some bytes does, said exactly: the FIFO takes as many as it has room for, in order, and RX_OVF
is set where one is dropped. -/
theorem pushBytes_eq {bs : List Byte} (h : bs ≠ []) :
    s.pushBytes bs =
      { s with
        rxFifo := s.rxFifo ++ bs.take (256 - s.rxFifo.length)
        rxOvf := s.rxOvf || decide (256 < s.rxFifo.length + bs.length) } := by
  induction bs generalizing s with
  | nil => exact absurd rfl h
  | cons b bs ih =>
    have h' : s.pushBytes (b :: bs) = (s.pushByte b).pushBytes bs := rfl
    rw [h']
    by_cases hr : s.rxFifo.length < 256
    · have h1 : 256 - s.rxFifo.length = 256 - (s.rxFifo.length + 1) + 1 := by omega
      rw [pushByte_of_room hr]
      by_cases hb : bs = []
      · subst hb
        simp [State.pushBytes, h1]
        omega
      · have h2 : s.rxFifo.length + 1 + bs.length = s.rxFifo.length + (bs.length + 1) := by omega
        rw [ih _ hb]
        simp [h1, h2]
    · have h1 : 256 - s.rxFifo.length = 0 := by omega
      rw [pushByte_of_full (by omega)]
      by_cases hb : bs = []
      · subst hb
        simp [State.pushBytes]
        omega
      · rw [ih _ hb]
        simp only [h1, List.take_zero, List.length_cons, Bool.true_or]
        simp
        omega

/-! ## Return from DONE -/

theorem takeResponse_of_done {s : State} (h : s.fsm = .done) : s.takeResponse = { s with fsm := .idle } := by
  simp [State.takeResponse, h]

theorem takeResponse_of_ne {s : State} (h : s.fsm ≠ .done) : s.takeResponse = s := by
  simp [State.takeResponse, h]

/-! ## Polling -/

/-- What one poll puts out besides a record: diagnostic events only. -/
def onlyDiags (ds : List Output) : Prop := ∀ o ∈ ds, ∃ a n p, o = .diag a n p

/-- Frames are processed to the first that resolves; the others put out at most a diagnostic event each. -/
theorem processFrames_cases (fs : List Frame) :
    ∃ ds : List Output, onlyDiags ds ∧
      ((s.processFrames fs = ({ s with outputs := s.outputs ++ ds }, false)) ∨
       (∃ f ∈ fs, addressedTo s.latAddr f.header = true ∧ resolves s.latKind (classify f.payload) = true ∧
          s.processFrames fs =
            (({ s with outputs := s.outputs ++ ds } : State).finish .resolved (classify f.payload)
              (f.header.extractLsb' 4 3) f.payload .none, true))) := by
  induction fs generalizing s with
  | nil => exact ⟨[], by simp [onlyDiags], .inl (by simp [State.processFrames])⟩
  | cons f fs ih =>
    by_cases ha : addressedTo s.latAddr f.header = true
    · by_cases hr : resolves s.latKind (classify f.payload) = true
      · exact ⟨[], by simp [onlyDiags], .inr ⟨f, by simp, ha, hr, by
          simp [State.processFrames, State.processFrame, ha, hr]⟩⟩
      · by_cases hd : classify f.payload = .other ∧ s.diagEn = true
        · obtain ⟨ds, hds, h⟩ := ih (s.emit (diagOf s.outputs.length f.header f.payload))
          have hp : s.processFrames (f :: fs) = (s.emit (diagOf s.outputs.length f.header f.payload)).processFrames fs := by
            have hf : s.processFrame f = (s.emit (diagOf s.outputs.length f.header f.payload), false) := by
              unfold State.processFrame
              rw [if_pos ha, if_neg hr, if_pos hd]
            simp only [State.processFrames, hf]
          refine ⟨diagOf s.outputs.length f.header f.payload :: ds, ?_, ?_⟩
          · intro o ho
            rcases List.mem_cons.1 ho with rfl | ho
            · exact ⟨_, _, _, rfl⟩
            · exact hds o ho
          · rcases h with h | ⟨g, hg, hga, hgr, h⟩
            · exact .inl (by rw [hp, h]; simp [State.emit])
            · exact .inr ⟨g, by simp [hg], by simpa using hga, by simpa using hgr, by
                rw [hp, h]; simp [State.emit, State.finish]⟩
        · obtain ⟨ds, hds, h⟩ := ih s
          have hp : s.processFrames (f :: fs) = s.processFrames fs := by
            simp only [State.processFrames, State.processFrame, ha, hr, hd, if_true, if_false, Bool.false_eq_true]
          refine ⟨ds, hds, ?_⟩
          rcases h with h | ⟨g, hg, hga, hgr, h⟩
          · exact .inl (by rw [hp, h])
          · exact .inr ⟨g, by simp [hg], hga, hgr, by rw [hp, h]⟩
    · obtain ⟨ds, hds, h⟩ := ih s
      have hp : s.processFrames (f :: fs) = s.processFrames fs := by
        simp only [State.processFrames, State.processFrame, ha, if_false, Bool.false_eq_true]
      refine ⟨ds, hds, ?_⟩
      rcases h with h | ⟨g, hg, hga, hgr, h⟩
      · exact .inl (by rw [hp, h])
      · exact .inr ⟨g, by simp [hg], hga, hgr, by rw [hp, h]⟩

/-- The deframer empties the FIFO and changes at most the fragment buffer and FRAME_OVF. -/
theorem deframe_state : s.deframe.2 =
    { s with rxFifo := [], frag := s.deframe.2.frag, fragDiscard := s.deframe.2.fragDiscard,
             frameOvf := s.deframe.2.frameOvf } := by
  unfold State.deframe
  cases s.params.reassembly <;> rfl

/-- A poll under its gate: the FIFO is drained, diagnostic events come first, then the block waits on, times out, or
is resolved by a frame of the chunk. -/
theorem pollAndGate_cases :
    ∃ ds : List Output, onlyDiags ds ∧
      ((s.pollAndGate = { s.deframe.2 with outputs := s.outputs ++ ds } ∧ ¬ s.latTimeout ≤ s.waitCnt) ∨
       (s.pollAndGate = ({ s.deframe.2 with outputs := s.outputs ++ ds } : State).finish .timeout .other
          s.latAddr [] .none ∧ s.latTimeout ≤ s.waitCnt) ∨
       (∃ f ∈ s.deframe.1, addressedTo s.latAddr f.header = true ∧
          resolves s.latKind (classify f.payload) = true ∧
          s.pollAndGate = ({ s.deframe.2 with outputs := s.outputs ++ ds } : State).finish .resolved
            (classify f.payload) (f.header.extractLsb' 4 3) f.payload .none)) := by
  obtain ⟨ds, hds, h⟩ := processFrames_cases s.deframe.2 s.deframe.1
  have hs := deframe_state s
  refine ⟨ds, hds, ?_⟩
  have ho : s.deframe.2.outputs = s.outputs := by rw [hs]
  have ht : s.deframe.2.latTimeout = s.latTimeout := by rw [hs]
  have hw : s.deframe.2.waitCnt = s.waitCnt := by rw [hs]
  have ha : s.deframe.2.latAddr = s.latAddr := by rw [hs]
  have hk : s.deframe.2.latKind = s.latKind := by rw [hs]
  rcases h with h | ⟨f, hf, hfa, hfr, h⟩
  · by_cases hg : s.latTimeout ≤ s.waitCnt
    · exact .inr (.inl ⟨by simp only [State.pollAndGate, State.pollOnce, h, ho, ht, hw, ha, hg, if_true], hg⟩)
    · exact .inl ⟨by simp only [State.pollAndGate, State.pollOnce, h, ho, ht, hw, hg, if_false], hg⟩
  · exact .inr (.inr ⟨f, hf, by rw [← ha]; exact hfa, by rw [← hk]; exact hfr, by
      simp only [State.pollAndGate, State.pollOnce, h, ho]⟩)

/-! ## Sending, settling, time -/

theorem txAccept_of_ne_send {s : State} (h : s.fsm ≠ .send) : s.txAccept = s := by
  simp [State.txAccept, h]

/-- In SEND the offered byte goes out, and the last one ends the frame. -/
theorem txAccept_of_send {s : State} (h : s.fsm = .send) :
    s.txAccept =
      if s.txIdx + 1 = s.txLen then
        ({ s with txIdx := s.txIdx + 1, outputs := s.outputs ++ [.txByte s.txData] } : State).endSend
      else { s with txIdx := s.txIdx + 1, outputs := s.outputs ++ [.txByte s.txData] } := by
  simp [State.txAccept, h]

theorem endSend_of_delay {s : State} (h : s.latSettle ≠ 0) :
    s.endSend = { s with settleCnt := 0, fsm := .settle } := by
  unfold State.endSend
  rw [if_neg h]

theorem endSend_of_zero {s : State} (h : s.latSettle = 0) : s.endSend = s.afterSettle := by
  simp [State.endSend, h]

theorem afterSettle_of_cmd {s : State} (h : s.latKind = .cmd) :
    s.afterSettle = s.finish .sent .other s.latAddr [] .none := by
  simp [State.afterSettle, h]

theorem afterSettle_of_waiting {s : State} (h : s.latKind ≠ .cmd) : s.afterSettle = s.enterWait := by
  simp [State.afterSettle, h]

theorem tick_of_quiet {s : State} (h : s.fsm = .idle ∨ s.fsm = .send ∨ s.fsm = .done) : s.tick = s := by
  rcases h with h | h | h <;> simp [State.tick, h]

theorem tick_of_settle {s : State} (h : s.fsm = .settle) : s.tick = s.tickSettle := by
  simp [State.tick, h]

theorem tick_of_wait {s : State} (h : s.fsm = .wait) : s.tick = s.tickWait := by
  simp [State.tick, h]

/-! ## Requests -/

/-- A REQ in IDLE is accepted or rejected; in any other state it is held. -/
theorem request_cases (k : ReqKind) (t : List Byte) :
    (s.fsm = .idle ∧ validate k t = .none ∧ s.request k t = s.accept k t) ∨
    (s.fsm = .idle ∧ validate k t ≠ .none ∧
      s.request k t = s.finish .rejected .other s.targetAddr [] (validate k t)) ∨
    (s.fsm ≠ .idle ∧ s.request k t = s.hold ⟨k, t⟩) := by
  by_cases h : s.fsm = .idle
  · by_cases hv : validate k t = .none
    · exact .inl ⟨h, hv, by simp [State.request, h, hv]⟩
    · exact .inr (.inl ⟨h, hv, by simp [State.request, h, hv]⟩)
  · exact .inr (.inr ⟨h, by simp [State.request, h]⟩)

/-- A template passes the check exactly when the kind is legal and the template has the format of R112. -/
theorem validate_eq_none_iff (k : ReqKind) (t : List Byte) :
    validate k t = .none ↔
      k ≠ .reserved3 ∧ ∃ b : List Byte, t = b ++ [terminator] ∧ b.length ≤ 14 ∧ terminator ∉ b := by
  constructor
  · intro h
    unfold validate Config.maxTemplate at h
    by_cases hk : k = .reserved3
    · simp [hk] at h
    by_cases hl : t.length = 0 ∨ t.length > 15
    · rw [if_neg hk, if_pos hl] at h; cases h
    by_cases hlast : t.getLast? ≠ some terminator
    · rw [if_neg hk, if_neg hl, if_pos hlast] at h; cases h
    by_cases hin : terminator ∈ t.dropLast
    · rw [if_neg hk, if_neg hl, if_neg hlast, if_pos hin] at h; cases h
    refine ⟨hk, t.dropLast, (List.dropLast_append_getLast? terminator (by simpa using hlast)).symm, ?_, hin⟩
    simp only [List.length_dropLast]
    omega
  · rintro ⟨hk, b, rfl, hl, hb⟩
    simp [validate, hk, hb, Config.maxTemplate]
    omega

/-! ## Bytes -/

theorem padBytes_getElem (n : Nat) (l : List Byte) (i : Nat) (h : i < n) : (padBytes n l)[i] = l.getD i 0 := by
  simp [padBytes]

/-- The first bytes of a padded list are the list. -/
theorem padBytes_take {n : Nat} {l : List Byte} (h : l.length ≤ n) : (padBytes n l).toList.take l.length = l := by
  apply List.ext_getElem
  · simp; omega
  · intro i h1 h2
    simp [padBytes, h2]

/-- `txbuf` after acceptance starts with the frame. -/
theorem overlay_take {f : List Byte} {buf : Vector Byte 16} (h : f.length ≤ 16) :
    (overlay f buf).toList.take f.length = f := by
  apply List.ext_getElem
  · simp; omega
  · intro i h1 h2
    simp [overlay, h2]

theorem overlay_above {f : List Byte} {buf : Vector Byte 16} (i : Fin 16) (h : f.length ≤ i.val) :
    (overlay f buf)[i] = buf[i] := by
  have : ¬ i.val < f.length := by omega
  simp [overlay, this]

/-! ## Fragments -/

/-- A fragment holds no 0xFF (R186). -/
theorem fragmentsFrom_clean {f : List Byte} (hf : terminator ∉ f) (c : List Byte) :
    ∀ g ∈ fragmentsFrom f c, terminator ∉ g := by
  induction c generalizing f with
  | nil => simpa [fragmentsFrom] using hf
  | cons b c ih =>
    by_cases hb : b = terminator
    · simp only [fragmentsFrom, hb, if_true, List.mem_cons]
      rintro g (rfl | hg)
      · exact hf
      · exact ih (by simp) g hg
    · simp only [fragmentsFrom, hb, if_false]
      exact ih (by simp [hf, Ne.symm hb])

/-- A kept fragment is a header and 1 to 14 payload bytes (R196). -/
theorem keepFragment_some {f : List Byte} {g : Frame} (h : keepFragment f = some g) :
    f = g.header :: g.payload ∧ 1 ≤ g.payload.length ∧ g.payload.length ≤ 14 := by
  match f with
  | [] => simp [keepFragment] at h
  | [_] => simp [keepFragment] at h
  | a :: b :: p =>
    change (if (b :: p).length + 1 > 15 then none else some (Frame.mk a (b :: p))) = some g at h
    by_cases hl : (b :: p).length + 1 > 15
    · rw [if_pos hl] at h; cases h
    · rw [if_neg hl] at h
      cases h
      simp only [List.length_cons] at hl
      exact ⟨rfl, by simp, by simp only [List.length_cons]; omega⟩

/-- Every frame of the stateless deframer has a payload of 1 to 14 bytes, and no 0xFF in it (R196). -/
theorem splitFrames_frame {c : List Byte} {g : Frame} (h : g ∈ splitFrames c) :
    1 ≤ g.payload.length ∧ g.payload.length ≤ 14 ∧ terminator ∉ g.header :: g.payload := by
  obtain ⟨f, hf, hk⟩ := List.mem_filterMap.1 h
  obtain ⟨he, h1, h2⟩ := keepFragment_some hk
  exact ⟨h1, h2, he ▸ fragmentsFrom_clean (by simp) c f hf⟩

/-- What the reassembling deframer keeps true from byte to byte (R192, R196). -/
structure Reassembler.Ok (r : Reassembler) : Prop where
  length : r.frag.length ≤ 15
  clean : terminator ∉ r.frag
  dropped : r.discard = true → r.frag = []
  frames : ∀ g ∈ r.frames, 1 ≤ g.payload.length ∧ g.payload.length ≤ 14 ∧ terminator ∉ g.header :: g.payload

theorem reassembleByte_ok {r : Reassembler} (h : r.Ok) (b : Byte) : (reassembleByte r b).Ok := by
  unfold reassembleByte
  split
  · split
    · exact ⟨h.length, h.clean, by simp, h.frames⟩
    · exact h
  · rename_i hd
    split
    · refine ⟨by simp, by simp, fun _ => rfl, ?_⟩
      intro g hg
      rcases List.mem_append.1 hg with hg | hg
      · exact h.frames g hg
      · obtain ⟨he, h1, h2⟩ := keepFragment_some (Option.mem_toList.1 hg)
        exact ⟨h1, h2, he ▸ h.clean⟩
    · rename_i hb
      split
      · rename_i hl
        exact ⟨by simp [Config.maxFragment] at hl ⊢; omega, by simp [h.clean, Ne.symm hb],
          by simp [hd], h.frames⟩
      · exact ⟨by simp, by simp, fun _ => rfl, h.frames⟩

theorem reassembleFrames_ok {frag : List Byte} {d : Bool} (hl : frag.length ≤ 15) (hc : terminator ∉ frag)
    (hd : d = true → frag = []) (c : List Byte) : (reassembleFrames frag d c).Ok := by
  have : ∀ (c : List Byte) (r : Reassembler), r.Ok → (c.foldl reassembleByte r).Ok := by
    intro c
    induction c with
    | nil => exact fun r h => h
    | cons b c ih => exact fun r h => ih _ (reassembleByte_ok h b)
  exact this c _ ⟨hl, hc, hd, by simp⟩

/-! ## Nibbles -/

/-- A digit after the others: the value is shifted one nibble and the digit added (R145). -/
theorem combineNat_append_one (m : DigitMode) (p : List Byte) (b : Byte) :
    combineNat m (p ++ [b]) = combineNat m p * 16 + digit m b := by
  simp [combineNat]

theorem digit_le (m : DigitMode) (b : Byte) : digit m b ≤ 255 := by
  cases m <;> simp only [digit] <;> omega

/-- The exact value of n bytes is at most 17 × (16^n − 1) (R149). -/
theorem combineNat_le (m : DigitMode) (p : List Byte) : combineNat m p ≤ 17 * (16 ^ p.length - 1) := by
  induction p using List.reverseRecOn with
  | nil => simp [combineNat]
  | append_singleton p b ih =>
    rw [combineNat_append_one]
    have := digit_le m b
    have h16 : 0 < 16 ^ p.length := by positivity
    simp only [List.length_append, List.length_cons, List.length_nil, pow_succ]
    omega

/-- At most eight digits fit the 37-bit result exactly (R149). -/
theorem combine_toNat {m : DigitMode} {p : List Byte} (h : p.length ≤ 8) :
    (combine m p).toNat = combineNat m p := by
  have h1 := combineNat_le m p
  have h2 : (16 : Nat) ^ p.length ≤ 16 ^ 8 := Nat.pow_le_pow_right (by norm_num) h
  simp only [combine, BitVec.toNat_ofNat]
  apply Nat.mod_eq_of_lt
  omega

end Sys2Proof.Machine
end

