-- ==== Sys2Proof/Laws/Frames.lean ====
section
/-!
SUPPORT. What the two deframers, the classifier and one poll do with whole frames: the lemmas the waiting
statements cite instead of unfolding the polls.
-/

namespace Sys2Proof.Machine

/-! ## Frames on the wire -/

@[simp] theorem chunkOf_nil : chunkOf [] = [] := rfl

@[simp] theorem chunkOf_cons (f : Byte × List Byte) (fs : List (Byte × List Byte)) :
    chunkOf (f :: fs) = frameBytes f.1 f.2 ++ chunkOf fs := by simp [chunkOf]

@[simp] theorem chunkOf_append (fs gs : List (Byte × List Byte)) : chunkOf (fs ++ gs) = chunkOf fs ++ chunkOf gs := by
  simp [chunkOf]

/-! ## The stateless deframer -/

/-- A run without 0xFF, then 0xFF: one fragment, and the rest starts afresh (R186). -/
theorem fragmentsFrom_run {f xs : List Byte} (h : terminator ∉ xs) (rest : List Byte) :
    fragmentsFrom f (xs ++ terminator :: rest) = (f ++ xs) :: fragmentsFrom [] rest := by
  induction xs generalizing f with
  | nil => simp [fragmentsFrom]
  | cons b xs ih =>
    obtain ⟨hb, hx⟩ := not_or.1 (List.mem_cons.not.1 h)
    simp [fragmentsFrom, Ne.symm hb, ih hx]

/-- A run without 0xFF at the end of the chunk is a fragment too (R190). -/
theorem fragmentsFrom_tail {f xs : List Byte} (h : terminator ∉ xs) : fragmentsFrom f xs = [f ++ xs] := by
  induction xs generalizing f with
  | nil => simp [fragmentsFrom]
  | cons b xs ih =>
    obtain ⟨hb, hx⟩ := not_or.1 (List.mem_cons.not.1 h)
    simp [fragmentsFrom, Ne.symm hb, ih hx]

theorem keepFragment_wholeFrame {h : Byte} {p : List Byte} (w : WholeFrame h p) :
    keepFragment (h :: p) = some ⟨h, p⟩ := by
  obtain ⟨-, -, h1, h2⟩ := w
  match p, h1 with
  | a :: q, _ =>
    have : ¬ (a :: q).length + 1 > Config.maxFragment := by simp [Config.maxFragment] at h2 ⊢; omega
    simp only [keepFragment, this, if_false]

/-- A whole frame at the head of a chunk is the first frame of the stateless deframer. -/
theorem splitFrames_wholeFrame {h : Byte} {p : List Byte} (w : WholeFrame h p) (rest : List Byte) :
    splitFrames (frameBytes h p ++ rest) = ⟨h, p⟩ :: splitFrames rest := by
  have hc : terminator ∉ h :: p := by simpa [not_or] using ⟨Ne.symm w.1, w.2.1⟩
  have he : frameBytes h p ++ rest = (h :: p) ++ terminator :: rest := by simp [frameBytes]
  simp only [splitFrames, fragments, he, fragmentsFrom_run hc, List.nil_append,
    List.filterMap_cons, keepFragment_wholeFrame w]

theorem hasOversize_wholeFrame {h : Byte} {p : List Byte} (w : WholeFrame h p) (rest : List Byte) :
    hasOversize (frameBytes h p ++ rest) = hasOversize rest := by
  have hc : terminator ∉ h :: p := by simpa [not_or] using ⟨Ne.symm w.1, w.2.1⟩
  have he : frameBytes h p ++ rest = (h :: p) ++ terminator :: rest := by simp [frameBytes]
  have hl : ¬ (h :: p).length > Config.maxFragment := by simp [Config.maxFragment]; have := w.2.2.2; omega
  simp only [hasOversize, fragments, he, fragmentsFrom_run hc, List.nil_append, List.any_cons, hl, decide_false,
    Bool.false_or]

/-- Whole frames at the head of a chunk are the first frames of the stateless deframer. -/
theorem splitFrames_chunkOf {fs : List (Byte × List Byte)} (hw : ∀ f ∈ fs, WholeFrame f.1 f.2) (rest : List Byte) :
    splitFrames (chunkOf fs ++ rest) = (fs.map fun f => ⟨f.1, f.2⟩) ++ splitFrames rest ∧
      hasOversize (chunkOf fs ++ rest) = hasOversize rest := by
  induction fs with
  | nil => exact ⟨rfl, rfl⟩
  | cons f fs ih =>
    obtain ⟨h1, h2⟩ := ih fun g hg => hw g (List.mem_cons_of_mem _ hg)
    have w := hw f List.mem_cons_self
    rw [chunkOf_cons, List.append_assoc, splitFrames_wholeFrame w, hasOversize_wholeFrame w, h1, h2]
    exact ⟨rfl, rfl⟩

/-! ## The reassembling deframer -/

/-- Bytes without 0xFF go to the buffer as long as they fit (R192). -/
theorem foldl_reassembleByte_run {xs : List Byte} (h : terminator ∉ xs) (r : Reassembler) (hd : r.discard = false)
    (hl : r.frag.length + xs.length ≤ 15) : xs.foldl reassembleByte r = { r with frag := r.frag ++ xs } := by
  induction xs generalizing r with
  | nil => simp
  | cons b xs ih =>
    obtain ⟨hb, hx⟩ := not_or.1 (List.mem_cons.not.1 h)
    simp only [List.length_cons] at hl
    have h1 : reassembleByte r b = { r with frag := r.frag ++ [b] } := by
      have : r.frag.length < Config.maxFragment := by simp [Config.maxFragment]; omega
      simp [reassembleByte, hd, Ne.symm hb, this]
    rw [List.foldl_cons, h1, ih hx _ (by simpa using hd) (by simp; omega)]
    simp

/-- From an empty buffer, a whole frame is yielded at its terminator and leaves the buffer empty (R192). -/
theorem foldl_reassembleByte_wholeFrame {h : Byte} {p : List Byte} (w : WholeFrame h p) (r : Reassembler)
    (hf : r.frag = []) (hd : r.discard = false) :
    (frameBytes h p).foldl reassembleByte r = { r with frames := r.frames ++ [⟨h, p⟩] } := by
  have hc : terminator ∉ h :: p := by simpa [not_or] using ⟨Ne.symm w.1, w.2.1⟩
  have he : frameBytes h p = (h :: p) ++ [terminator] := by simp [frameBytes]
  rw [he, List.foldl_append, foldl_reassembleByte_run hc r hd (by have := w.2.2.2; simp [hf]; omega)]
  cases r
  simp_all [reassembleByte, keepFragment_wholeFrame w]

/-- From an empty buffer, whole frames are yielded one after the other and leave the buffer empty (R192). -/
theorem foldl_reassembleByte_chunkOf {fs : List (Byte × List Byte)} (hw : ∀ f ∈ fs, WholeFrame f.1 f.2)
    (r : Reassembler) (hf : r.frag = []) (hd : r.discard = false) :
    (chunkOf fs).foldl reassembleByte r = { r with frames := r.frames ++ (fs.map fun f => ⟨f.1, f.2⟩) } := by
  induction fs generalizing r with
  | nil => simp
  | cons f fs ih =>
    rw [chunkOf_cons, List.foldl_append, foldl_reassembleByte_wholeFrame (hw f List.mem_cons_self) r hf hd,
      ih (fun g hg => hw g (List.mem_cons_of_mem _ hg)) _ (by simpa using hf) (by simpa using hd)]
    simp

/-- Frames already yielded stay first. -/
theorem foldl_reassembleByte_frames (c : List Byte) (r : Reassembler) :
    ∃ gs, (c.foldl reassembleByte r).frames = r.frames ++ gs := by
  induction c generalizing r with
  | nil => exact ⟨[], by simp⟩
  | cons b c ih =>
    obtain ⟨gs, hg⟩ := ih (reassembleByte r b)
    have : ∃ hs, (reassembleByte r b).frames = r.frames ++ hs := by
      unfold reassembleByte
      split_ifs
      · exact ⟨[], by simp⟩
      · exact ⟨[], by simp⟩
      · exact ⟨_, rfl⟩
      · exact ⟨[], by simp⟩
      · exact ⟨[], by simp⟩
    obtain ⟨hs, hh⟩ := this
    exact ⟨hs ++ gs, by rw [List.foldl_cons, hg, hh, List.append_assoc]⟩

/-- While a fragment is being dropped, bytes other than 0xFF change nothing (R192). -/
theorem foldl_reassembleByte_dropping {xs : List Byte} (h : terminator ∉ xs) (r : Reassembler)
    (hd : r.discard = true) : xs.foldl reassembleByte r = r := by
  induction xs with
  | nil => rfl
  | cons b xs ih =>
    obtain ⟨hb, hx⟩ := not_or.1 (List.mem_cons.not.1 h)
    have hr : reassembleByte r b = r := by simp [reassembleByte, hd, Ne.symm hb]
    rw [List.foldl_cons, hr, ih hx]

/-- A run without 0xFF that does not fit the buffer drops the fragment and reports it (R193). -/
theorem foldl_reassembleByte_oversize {xs : List Byte} (h : terminator ∉ xs) (r : Reassembler)
    (hd : r.discard = false) (hf : r.frag.length ≤ 15) (hl : 15 < r.frag.length + xs.length) :
    xs.foldl reassembleByte r = { r with frag := [], discard := true, overflow := true } := by
  induction xs generalizing r with
  | nil => simp at hl; omega
  | cons b xs ih =>
    obtain ⟨hb, hx⟩ := not_or.1 (List.mem_cons.not.1 h)
    simp only [List.length_cons] at hl
    rw [List.foldl_cons]
    by_cases hr : r.frag.length < 15
    · have h1 : reassembleByte r b = { r with frag := r.frag ++ [b] } := by
        simp [reassembleByte, hd, Ne.symm hb, Config.maxFragment, hr]
      rw [h1, ih hx _ (by simpa using hd) (by simp; omega) (by simp; omega)]
    · have h1 : reassembleByte r b = { r with frag := [], discard := true, overflow := true } := by
        simp [reassembleByte, hd, Ne.symm hb, Config.maxFragment, hr]
      rw [h1, foldl_reassembleByte_dropping hx _ rfl]

/-! ## Both deframers on a list of whole frames -/

/-- Whole frames only: both deframers yield exactly them, and carry and report nothing. -/
theorem deframe_wholeFrames {s : State} {fs : List (Byte × List Byte)} (hs : s.freshDeframer)
    (hw : ∀ f ∈ fs, WholeFrame f.1 f.2) (hx : s.rxFifo = chunkOf fs) :
    s.deframe = (fs.map fun f => ⟨f.1, f.2⟩, { s with rxFifo := [] }) := by
  have hoff : splitFrames s.rxFifo = (fs.map fun f => ⟨f.1, f.2⟩) ∧ hasOversize s.rxFifo = false := by
    obtain ⟨h1, h2⟩ := splitFrames_chunkOf hw []
    rw [List.append_nil, ← hx] at h1 h2
    have h0 : splitFrames [] = [] ∧ hasOversize [] = false := by decide
    exact ⟨by rw [h1, h0.1, List.append_nil], by rw [h2, h0.2]⟩
  have hon : reassembleFrames s.frag s.fragDiscard s.rxFifo =
      { frag := [], discard := false, overflow := false, frames := fs.map fun f => ⟨f.1, f.2⟩ } := by
    rw [hx, hs.1, hs.2]
    exact (foldl_reassembleByte_chunkOf hw _ rfl rfl).trans (by simp)
  obtain ⟨hf, hd⟩ := hs
  unfold State.deframe
  cases hr : s.params.reassembly
  · simp only [hoff.1, hoff.2, State.noteFrameOvf, Bool.or_false]
  · simp only [hon, State.noteFrameOvf, Bool.or_false]
    cases s
    simp_all

/-- Whole frames at the head of the chunk are the first frames of either deframer, whatever follows them. -/
theorem deframe_chunkOf {s : State} {fs : List (Byte × List Byte)} {rest : List Byte} (hs : s.freshDeframer)
    (hw : ∀ f ∈ fs, WholeFrame f.1 f.2) (hx : s.rxFifo = chunkOf fs ++ rest) :
    ∃ gs, s.deframe.1 = (fs.map fun f => ⟨f.1, f.2⟩) ++ gs := by
  unfold State.deframe
  cases s.params.reassembly
  · exact ⟨splitFrames rest, by simp only [hx, (splitFrames_chunkOf hw rest).1]⟩
  · simp only [reassembleFrames, hx, hs.1, hs.2, List.foldl_append]
    rw [foldl_reassembleByte_chunkOf hw _ rfl rfl]
    exact foldl_reassembleByte_frames rest _

/-! ## Kinds and addresses -/

theorem hasKind_iff_classify (p : List Byte) (k : Kind) : HasKind p k ↔ classify p = k := by
  by_cases h1 : p = [0x60, 0x02]
  · subst h1; cases k <;> simp [HasKind, classify]
  by_cases h2 : p = [0x61, 0x41]
  · subst h2; cases k <;> simp [HasKind, classify]
  by_cases h3 : p = [0x41]
  · subst h3; cases k <;> simp [HasKind, classify]
  by_cases h4 : p = [0x51]
  · subst h4; cases k <;> simp [HasKind, classify]
  by_cases h5 : ∃ r, p = 0x50 :: r
  · obtain ⟨r, rfl⟩ := h5
    cases k <;> simp [HasKind, classify]
  · have h6 : ∀ r, p ≠ 0x50 :: r := fun r hr => h5 ⟨r, hr⟩
    have h7 : ¬ p.head? = some 0x50 := by
      intro hp
      cases p with
      | nil => simp at hp
      | cons a r => exact h6 r (by simpa using hp)
    have hc : classify p = .other := by simp only [classify, h1, h2, h3, h4, h7, if_false]
    rw [hc]
    cases k
    · exact ⟨fun _ => rfl, fun _ => ⟨h3, h4, h6, h1, h2⟩⟩
    · exact ⟨fun h => absurd h h3, fun h => nomatch h⟩
    · exact ⟨fun h => absurd h h4, fun h => nomatch h⟩
    · exact ⟨fun h => absurd h h5, fun h => nomatch h⟩
    · exact ⟨fun h => absurd h h1, fun h => nomatch h⟩
    · exact ⟨fun h => absurd h h2, fun h => nomatch h⟩

theorem endsWait_iff_resolves (k : ReqKind) (c : Kind) : EndsWait k c ↔ resolves k c = true := by
  cases k <;> cases c <;> simp [EndsWait, resolves]

theorem fromDevice_iff_addressedTo (a : DevAddr) (h : Byte) : FromDevice a h ↔ addressedTo a h = true := by
  simp [FromDevice, addressedTo]

/-! ## Records -/

theorem mkRsp_empty (st : Status) (a : DevAddr) (r : Reason) : mkRsp st .other a [] r = emptyRecord st a r := by
  simp only [mkRsp, emptyRecord, List.length_nil]
  congr 1

theorem mkRsp_resolved {k : Kind} {a : DevAddr} {p : List Byte} (h : p.length ≤ 14) :
    ResolvedRecord (mkRsp .resolved k a p .none) k a p := by
  refine ⟨rfl, rfl, rfl, ?_, rfl, padBytes_take h, fun i hi => ?_⟩
  · simp only [mkRsp, BitVec.toNat_ofNat]; omega
  · have := padBytes_getElem 14 p i i.2
    simp only [mkRsp, Fin.getElem_fin, this]
    rw [List.getD_eq_default _ _ hi]

/-! ## One poll -/

/-- A poll of nothing: only the timeout gate acts (R298). -/
theorem pollAndGate_nothing {s : State} (h : s.deframe = ([], { s with rxFifo := [] })) :
    s.pollAndGate = if s.latTimeout ≤ s.waitCnt then
      ({ s with rxFifo := [] } : State).finish .timeout .other s.latAddr [] .none else { s with rxFifo := [] } := by
  simp only [State.pollAndGate, State.pollOnce, h, State.processFrames]

/-- With an empty FIFO nothing is deframed. -/
theorem deframe_of_empty {s : State} (h : s.rxFifo = []) : s.deframe = ([], s) := by
  unfold State.deframe
  cases s.params.reassembly
  · simp only [h]
    cases s
    simp_all [splitFrames, fragments, fragmentsFrom, keepFragment, hasOversize, State.noteFrameOvf, Config.maxFragment]
  · simp only [h, reassembleFrames, List.foldl_nil]
    cases s
    simp_all [State.noteFrameOvf]

/-- A poll that yields no frame: only the timeout gate acts, on the deframed state (R298). -/
theorem pollAndGate_of_noFrames {s t : State} (h : s.deframe = ([], t)) (ht : t.latTimeout = s.latTimeout)
    (hw : t.waitCnt = s.waitCnt) : s.pollAndGate = t.afterGate := by
  simp only [State.pollAndGate, State.pollOnce, h, State.processFrames, State.afterGate, State.finish, mkRsp_empty,
    BitVec.le_def, ht, hw]

/-- The events of a list of frames are diagnostic events only. -/
theorem onlyDiags_of_reports {a : DevAddr} {d : Bool} {fs : List (Byte × List Byte)} {ds : List Output}
    (h : Reports a d fs ds) : onlyDiags ds := by
  induction h with
  | nil => simp [onlyDiags]
  | silent _ _ ih => exact ih
  | event q _ _ _ ih => exact List.forall_mem_cons.2 ⟨⟨_, _, _, rfl⟩, ih⟩

/-- Diagnostic events add no record: after them and one response there is one record more. -/
theorem records_of_onlyDiags {s t : State} {ds : List Output} {r : Rsp} (h : onlyDiags ds)
    (ht : t.outputs = s.outputs ++ ds ++ [.response r]) : t.records = s.records ++ [r] := by
  have h0 : ({ s with outputs := ds } : State).records = [] := by
    refine List.filterMap_eq_nil_iff.2 fun o ho => ?_
    obtain ⟨a, n, p, rfl⟩ := h o ho
    rfl
  unfold State.records at h0 ⊢
  rw [ht, List.filterMap_append, List.filterMap_append, h0, List.append_nil]
  rfl

/-- The payload field of the event of `diagOf` starts with the payload. -/
theorem diagOf_field {h : Byte} {p : List Byte} (n : Nat) (hl : p.length ≤ 14) :
    ∃ q, DiagField p q ∧ diagOf n h p = .diag (h.extractLsb' 4 3) (BitVec.ofNat 4 p.length) q := by
  refine ⟨_, List.ext_getElem ?_ fun i h1 h2 => ?_, rfl⟩
  · simp; omega
  · simp [h2]

/-- The loop over the frames goes past those that do not qualify, and puts out the events of the reported ones (R296,
R297, R310 to R312). -/
theorem processFrames_passing {s : State} {fs : List (Byte × List Byte)}
    (h : ∀ f ∈ fs, Passes s.latKind s.latAddr f) :
    ∃ ds, Reports s.latAddr s.diagEn fs ds ∧ ∀ gs : List Frame,
      s.processFrames ((fs.map fun f => ⟨f.1, f.2⟩) ++ gs) =
        ({ s with outputs := s.outputs ++ ds } : State).processFrames gs := by
  induction fs generalizing s with
  | nil => exact ⟨[], .nil, fun gs => by simp⟩
  | cons f fs ih =>
    obtain ⟨hw, hn⟩ := h f List.mem_cons_self
    have hfs := fun g hg => h g (List.mem_cons_of_mem _ hg)
    have hother : HasKind f.2 .other ↔ classify f.2 = .other := hasKind_iff_classify _ _
    have hr : addressedTo s.latAddr f.1 = true → ¬ resolves s.latKind (classify f.2) = true := fun ha hr => by
      obtain ⟨k, hk, he⟩ := hn ((fromDevice_iff_addressedTo _ _).2 ha)
      exact he ((endsWait_iff_resolves _ _).2 ((hasKind_iff_classify _ _).1 hk ▸ hr))
    by_cases hp : IsReported s.latAddr s.diagEn f
    · obtain ⟨hd, hk, he⟩ := hp
      have ha := (fromDevice_iff_addressedTo _ _).1 hd
      obtain ⟨q, hq, hdiag⟩ := diagOf_field (h := f.1) s.outputs.length hw.2.2.2
      obtain ⟨ds, hds, hg⟩ := ih (s := s.emit (diagOf s.outputs.length f.1 f.2)) hfs
      refine ⟨_, .event q ⟨hd, hk, he⟩ hq hds, fun gs => ?_⟩
      have hf : s.processFrame ⟨f.1, f.2⟩ = (s.emit (diagOf s.outputs.length f.1 f.2), false) := by
        unfold State.processFrame
        rw [if_pos ha, if_neg (hr ha), if_pos ⟨hother.1 hk, he⟩]
      simp only [List.map_cons, List.cons_append, State.processFrames, hf, hg]
      simp [State.emit, hdiag, hd.2]
    · obtain ⟨ds, hds, hg⟩ := ih hfs
      refine ⟨ds, .silent hp hds, fun gs => ?_⟩
      have hf : s.processFrame ⟨f.1, f.2⟩ = (s, false) := by
        unfold State.processFrame
        split
        · rename_i ha
          rw [if_neg (hr ha),
            if_neg fun hc => hp ⟨(fromDevice_iff_addressedTo _ _).2 ha, hother.2 hc.1, hc.2⟩]
        · rfl
      simp only [List.map_cons, List.cons_append, State.processFrames, hf, hg]

/-- Ignored frames have no events. -/
theorem reports_of_ignores {s : State} {fs : List (Byte × List Byte)} {ds : List Output}
    (h : ∀ f ∈ fs, s.ignores f) (hr : Reports s.latAddr s.diagEn fs ds) : ds = [] := by
  induction hr with
  | nil => rfl
  | silent _ _ ih => exact ih fun g hg => h g (List.mem_cons_of_mem _ hg)
  | event q hp _ _ _ => exact absurd hp (h _ List.mem_cons_self).2

/-- Frames that do not qualify, then one that does: the events of the first, then the resolution, whatever follows and
whatever the gate would say (R296, R297, R309, R349). -/
theorem pollAndGate_resolves {s : State} {fs : List (Byte × List Byte)} {h : Byte} {p : List Byte} {gs : List Frame}
    (hd : s.deframe.1 = (fs.map fun f => ⟨f.1, f.2⟩) ++ ⟨h, p⟩ :: gs)
    (hfs : ∀ f ∈ fs, Passes s.latKind s.latAddr f) (ha : addressedTo s.latAddr h = true)
    (hr : resolves s.latKind (classify p) = true) :
    ∃ ds, Reports s.latAddr s.diagEn fs ds ∧
      s.pollAndGate = ({ s.deframe.2 with outputs := s.outputs ++ ds } : State).finish .resolved (classify p)
        (h.extractLsb' 4 3) p .none := by
  have hs := deframe_state s
  obtain ⟨hk, hla, hdg, ho⟩ : s.deframe.2.latKind = s.latKind ∧ s.deframe.2.latAddr = s.latAddr ∧
      s.deframe.2.diagEn = s.diagEn ∧ s.deframe.2.outputs = s.outputs := by rw [hs]; exact ⟨rfl, rfl, rfl, rfl⟩
  obtain ⟨ds, hds, hg⟩ := processFrames_passing (s := s.deframe.2) (fs := fs) (by rwa [hk, hla])
  refine ⟨ds, by rwa [hla, hdg] at hds, ?_⟩
  simp only [State.pollAndGate, State.pollOnce, hd, hg, State.processFrames, State.processFrame, hla, hk, ha, hr, ho,
    if_true]

/-- Whole frames that do not qualify and nothing else: their events, and then the gate acts (R296, R298). -/
theorem pollAndGate_passing {s : State} {fs : List (Byte × List Byte)} (hf : s.freshDeframer)
    (hfs : ∀ f ∈ fs, Passes s.latKind s.latAddr f) (hx : s.rxFifo = chunkOf fs) :
    ∃ ds, Reports s.latAddr s.diagEn fs ds ∧
      s.pollAndGate = ({ s with rxFifo := [], outputs := s.outputs ++ ds } : State).afterGate := by
  obtain ⟨ds, hds, hg⟩ := processFrames_passing (s := { s with rxFifo := [] }) hfs
  refine ⟨ds, hds, ?_⟩
  have hg := hg []
  rw [List.append_nil] at hg
  simp only [State.pollAndGate, State.pollOnce, deframe_wholeFrames hf (fun f hm => (hfs f hm).1) hx, hg,
    State.processFrames, State.afterGate, State.finish, mkRsp_empty, BitVec.le_def]

/-- Where there is nothing to report, a poll only drains the FIFO, and the gate acts. -/
theorem pollAndGate_of_nothingToReport {s : State} (h : s.nothingToReport) :
    s.pollAndGate = ({ s with rxFifo := [] } : State).afterGate := by
  obtain h | ⟨hf, fs, hi, hx⟩ := h
  · exact pollAndGate_of_noFrames ((deframe_of_empty h).trans (by rw [← h])) rfl rfl
  · obtain ⟨ds, hds, hg⟩ := pollAndGate_passing hf (fun f hm => (hi f hm).1) hx
    rw [hg, reports_of_ignores hi hds, List.append_nil]

/-! ## Time in WAIT -/

/-- A TICK in WAIT: between polls it only counts, and a due tick polls (R294). -/
theorem tickWait_between {s : State} (h : s.pollCnt.toNat + 1 < max s.latPoll.toNat 1) :
    s.tickWait = { s with waitCnt := satSucc s.waitCnt, pollCnt := s.pollCnt + 1 } := by
  have hp : (pollSpacing s.latPoll).toNat = max s.latPoll.toNat 1 := by
    unfold pollSpacing
    split
    · rename_i h0; simp [h0]
    · rename_i h0
      have : s.latPoll.toNat ≠ 0 := fun h => h0 (BitVec.eq_of_toNat_eq (by simpa using h))
      omega
  have hl : ¬ pollSpacing s.latPoll ≤ s.pollCnt + 1 := by
    rw [BitVec.le_def, hp]
    have := s.latPoll.isLt
    have h1 : (s.pollCnt + 1).toNat = s.pollCnt.toNat + 1 := by simp; omega
    omega
  unfold State.tickWait
  simp only [hl, if_false]

theorem tickWait_due {s : State} (h : s.pollCnt.toNat + 1 = max s.latPoll.toNat 1) :
    s.tickWait = ({ s with waitCnt := satSucc s.waitCnt, pollCnt := 0 } : State).pollAndGate := by
  have hp : (pollSpacing s.latPoll).toNat = max s.latPoll.toNat 1 := by
    unfold pollSpacing
    split
    · rename_i h0; simp [h0]
    · rename_i h0
      have : s.latPoll.toNat ≠ 0 := fun h => h0 (BitVec.eq_of_toNat_eq (by simpa using h))
      omega
  have hl : pollSpacing s.latPoll ≤ s.pollCnt + 1 := by
    rw [BitVec.le_def, hp]
    have := s.latPoll.isLt
    have h1 : (s.pollCnt + 1).toNat = s.pollCnt.toNat + 1 := by simp; omega
    omega
  unfold State.tickWait
  simp only [hl, if_true]

/-- The elapsed count saturates (R16). -/
theorem satSucc_toNat (v : Word) : (satSucc v).toNat = min (v.toNat + 1) 4294967295 := by
  unfold satSucc
  split
  · rename_i h; subst h; decide
  · rename_i h
    have : v.toNat ≠ 4294967295 := fun h' => h (BitVec.eq_of_toNat_eq (by simpa using h'))
    have := v.isLt
    simp
    omega

/-- During a wait, no event but TICK and RESET moves the sequencer, the counts or the latched bounds (R34, R306). -/
theorem exec_in_wait {i : Instr} {s : State} (hs : s.fsm = .wait) (hw : i.wf = true) (ht : i ≠ .tick)
    (hr : i ≠ .reset) :
    ∃ t, exec i s = .next t ∧ t.fsm = .wait ∧ t.latTimeout = s.latTimeout ∧ t.latPoll = s.latPoll ∧
      t.waitCnt = s.waitCnt ∧ t.pollCnt = s.pollCnt := by
  have hreq : ∀ k t, s.request k t = s.hold ⟨k, t⟩ := fun k t => by simp [State.request, hs]
  have hgo : ∀ i b, s.offers i b = false := fun i b => by simp [State.offers, hs]
  have hrx : ∀ bs, ∃ t, Host.Outcome.next (s.pushBytes bs) = (.next t : Host.Outcome State Fault Refusal) ∧
      t.fsm = .wait ∧ t.latTimeout = s.latTimeout ∧ t.latPoll = s.latPoll ∧ t.waitCnt = s.waitCnt ∧
      t.pollCnt = s.pollCnt := fun bs => by
    obtain ⟨_, _, h, -⟩ := pushBytes_cases s bs
    exact ⟨_, congrArg _ h, hs, rfl, rfl, rfl, rfl⟩
  cases i with
  | tick => exact absurd rfl ht
  | reset => exact absurd rfl hr
  | cfgw idx v =>
    refine ⟨_, rfl, ?_⟩
    unfold State.cfgWrite
    split <;> exact ⟨hs, rfl, rfl, rfl, rfl⟩
  | take => exact ⟨_, rfl, by rw [takeResponse_of_ne (by simp [hs])]; exact ⟨hs, rfl, rfl, rfl, rfl⟩⟩
  | txacc => exact ⟨_, rfl, by rw [txAccept_of_ne_send (by simp [hs])]; exact ⟨hs, rfl, rfl, rfl, rfl⟩⟩
  | hdrOut a => exact ⟨_, rfl, by rw [hgo]; exact ⟨hs, rfl, rfl, rfl, rfl⟩⟩
  | rx b => exact hrx [b]
  | hdrIn a x => exact hrx [_]
  | term d =>
    cases d
    · exact hrx [_]
    · exact ⟨_, rfl, by rw [hgo]; exact ⟨hs, rfl, rfl, rfl, rfl⟩⟩
  | rspAck h | rspCompletion h | rspInquiryReply h p | rspSyntaxError h | rspNotExecutable h | rspOther h p =>
    exact hrx _
  | cmdZoomIn x | cmdMove a b c d | cmdPresetRecall x | cmdPresetStore x =>
    refine ⟨_, if_pos ?_, by rw [hreq]; exact ⟨hs, rfl, rfl, rfl, rfl⟩⟩
    exact hw
  | reqCmd d | reqCmdWait d | reqInq d | reqK3 d | cmdPowerOn | cmdPowerOff | cmdZoomStop | cmdMoveStop | cmdHome
  | cmdPtReset | inqPower | inqPantiltPos | inqVersion | inqRedGain =>
    exact ⟨_, rfl, by rw [hreq]; exact ⟨hs, rfl, rfl, rfl, rfl⟩⟩
  | _ => exact ⟨_, rfl, hs, rfl, rfl, rfl, rfl⟩

/-! ## The events that poll -/

/-- An event that polls is the poll and its gate, from the state the event's own effect leaves (R290 to R294). -/
theorem exec_of_pollEvent {i : Instr} {s b : State} (h : PollEvent i s b) : exec i s = .next b.pollAndGate := by
  obtain ⟨rfl, hd, rfl⟩ | ⟨rfl, hs, hl, hk, rfl⟩ | ⟨rfl, hs, hi, hl, hk, j, hj, rfl⟩ := h
  · have he : satSucc s.waitCnt = BitVec.ofNat 32 s.elapsedNext :=
      BitVec.eq_of_toNat_eq (by rw [satSucc_toNat]; unfold State.elapsedNext; simp; omega)
    change Host.Outcome.next s.tick = _
    rw [tick_of_wait hd.1, tickWait_due hd.2, he]
  · have he : s.settleCnt + 1 = s.latSettle :=
      BitVec.eq_of_toNat_eq (by have := s.latSettle.isLt; simp; omega)
    change Host.Outcome.next s.tick = _
    rw [tick_of_settle hs]
    unfold State.tickSettle
    simp only [he]
    rw [if_pos (BitVec.le_refl _), afterSettle_of_waiting (by exact hk)]
    rfl
  · have hd : s.txData = s.txbuf[j] := by
      unfold State.txData
      rw [hj]
      simp [List.getD_eq_getElem?_getD]
    change Host.Outcome.next s.txAccept = _
    rw [txAccept_of_send hs, if_pos hi, endSend_of_zero (by exact hl), afterSettle_of_waiting (by exact hk), hd, hi]
    rfl

end Sys2Proof.Machine
end

