-- ==== Sys2Proof/Laws/PerInstr.lean ====
section
/-!
SUPPORT. One lemma per instruction: the family OpcodeRow says that what the encoder writes for an instruction is one
host operation of the instruction's own row of spec/opcode_table.json (a catalog name: of the REQ row it expands to,
30_encoding.md R117), and that an instruction of another agent is written without any host operation.
-/

namespace Sys2Proof.Laws.OpcodeRow

/-- Mask and pattern of the op values that write the instruction; none where no host operation does. -/
def row : Instr → Option (BitVec 8 × BitVec 8)
  | .reqCmd _ => some (0xFF, 0x10)
  | .reqCmdWait _ => some (0xFF, 0x11)
  | .reqInq _ => some (0xFF, 0x12)
  | .reqK3 _ => some (0xFF, 0x13)
  | .cfgw _ _ => some (0xF8, 0x20)
  | .cfgr _ => some (0xF8, 0x30)
  | .take => some (0xFF, 0x40)
  | .nibSplit _ _ => some (0xFF, 0x50)
  | .nibCombine _ => some (0xFF, 0x51)
  | .nibField _ _ _ => some (0xFF, 0x52)
  | .decBool _ => some (0xFF, 0x53)
  | .decNumreg _ => some (0xFF, 0x54)
  | .decPantilt _ => some (0xFF, 0x55)
  | .decVersion _ => some (0xFF, 0x56)
  | .classify _ => some (0xFF, 0x57)
  | .frameEnc _ _ => some (0xFF, 0x58)
  | .addrDec _ => some (0xFF, 0x59)
  | .split _ => some (0xFF, 0x5A)
  | .reserved00 _ => some (0xF0, 0x00)
  | .reserved14 _ => some (0xFC, 0x14)
  | .reserved18 _ => some (0xF8, 0x18)
  | .reserved28 _ => some (0xF8, 0x28)
  | .reserved38 _ => some (0xF8, 0x38)
  | .reserved41 => some (0xFF, 0x41)
  | .reserved42 _ => some (0xFE, 0x42)
  | .reserved44 _ => some (0xFC, 0x44)
  | .reserved48 _ => some (0xF8, 0x48)
  | .reserved5B => some (0xFF, 0x5B)
  | .reserved5C _ => some (0xFC, 0x5C)
  | .reserved60 _ => some (0xE0, 0x60)
  | .reserved80 _ => some (0x80, 0x80)
  | .txacc => none
  | .rx _ => none
  | .tick => none
  | .reset => none
  | .cmdPowerOn => some (0xFF, 0x10)
  | .cmdPowerOff => some (0xFF, 0x10)
  | .cmdZoomIn _ => some (0xFF, 0x10)
  | .cmdZoomStop => some (0xFF, 0x10)
  | .cmdMove _ _ _ _ => some (0xFF, 0x10)
  | .cmdMoveStop => some (0xFF, 0x10)
  | .cmdHome => some (0xFF, 0x10)
  | .cmdPtReset => some (0xFF, 0x10)
  | .cmdPresetRecall _ => some (0xFF, 0x10)
  | .cmdPresetStore _ => some (0xFF, 0x10)
  | .inqPower => some (0xFF, 0x12)
  | .inqPantiltPos => some (0xFF, 0x12)
  | .inqVersion => some (0xFF, 0x12)
  | .inqRedGain => some (0xFF, 0x12)
  | .hdrOut _ => none
  | .hdrIn _ _ => none
  | .term _ => none
  | .rspAck _ => none
  | .rspCompletion _ => none
  | .rspInquiryReply _ _ => none
  | .rspSyntaxError _ => none
  | .rspNotExecutable _ => none
  | .rspOther _ _ => none

/-- The encoder writes the instruction as one operation of its row, or without a host operation. -/
def Statement (i : Instr) : Prop :=
  match row i with
  | some (mask, pattern) => ∃ w, encode i = [.hostOp w] ∧ w.op &&& mask = pattern
  | none => ∀ w, .hostOp w ∉ encode i

theorem reqCmd (t : List Byte) : Statement (.reqCmd t) :=
  ⟨_, rfl, (by decide : 0x10#8 &&& 0xFF#8 = 0x10)⟩
theorem reqCmdWait (t : List Byte) : Statement (.reqCmdWait t) :=
  ⟨_, rfl, (by decide : 0x11#8 &&& 0xFF#8 = 0x11)⟩
theorem reqInq (t : List Byte) : Statement (.reqInq t) :=
  ⟨_, rfl, (by decide : 0x12#8 &&& 0xFF#8 = 0x12)⟩
theorem reqK3 (t : List Byte) : Statement (.reqK3 t) :=
  ⟨_, rfl, (by decide : 0x13#8 &&& 0xFF#8 = 0x13)⟩
theorem cfgw (idx : BitVec 3) (v : Word) : Statement (.cfgw idx v) :=
  ⟨_, rfl, (by decide : ∀ x : BitVec 3, (4#5 ++ x : BitVec 8) &&& 0xF8 = 0x20) idx⟩
theorem cfgr (idx : BitVec 3) : Statement (.cfgr idx) :=
  ⟨_, rfl, (by decide : ∀ x : BitVec 3, (6#5 ++ x : BitVec 8) &&& 0xF8 = 0x30) idx⟩
theorem take : Statement .take :=
  ⟨_, rfl, (by decide : 0x40#8 &&& 0xFF#8 = 0x40)⟩
theorem nibSplit (v : Word) (n : BitVec 4) : Statement (.nibSplit v n) :=
  ⟨_, rfl, (by decide : 0x50#8 &&& 0xFF#8 = 0x50)⟩
theorem nibCombine (p : List Byte) : Statement (.nibCombine p) :=
  ⟨_, rfl, (by decide : 0x51#8 &&& 0xFF#8 = 0x51)⟩
theorem nibField (p : List Byte) (off n : BitVec 4) : Statement (.nibField p off n) :=
  ⟨_, rfl, (by decide : 0x52#8 &&& 0xFF#8 = 0x52)⟩
theorem decBool (p : List Byte) : Statement (.decBool p) :=
  ⟨_, rfl, (by decide : 0x53#8 &&& 0xFF#8 = 0x53)⟩
theorem decNumreg (p : List Byte) : Statement (.decNumreg p) :=
  ⟨_, rfl, (by decide : 0x54#8 &&& 0xFF#8 = 0x54)⟩
theorem decPantilt (p : List Byte) : Statement (.decPantilt p) :=
  ⟨_, rfl, (by decide : 0x55#8 &&& 0xFF#8 = 0x55)⟩
theorem decVersion (p : List Byte) : Statement (.decVersion p) :=
  ⟨_, rfl, (by decide : 0x56#8 &&& 0xFF#8 = 0x56)⟩
theorem classify (p : List Byte) : Statement (.classify p) :=
  ⟨_, rfl, (by decide : 0x57#8 &&& 0xFF#8 = 0x57)⟩
theorem frameEnc (a : DevAddr) (t : List Byte) : Statement (.frameEnc a t) :=
  ⟨_, rfl, (by decide : 0x58#8 &&& 0xFF#8 = 0x58)⟩
theorem addrDec (h : Byte) : Statement (.addrDec h) :=
  ⟨_, rfl, (by decide : 0x59#8 &&& 0xFF#8 = 0x59)⟩
theorem split (c : List Byte) : Statement (.split c) :=
  ⟨_, rfl, (by decide : 0x5A#8 &&& 0xFF#8 = 0x5A)⟩
theorem reserved00 (lo : BitVec 4) : Statement (.reserved00 lo) :=
  ⟨_, rfl, (by decide : ∀ x : BitVec 4, (0#4 ++ x : BitVec 8) &&& 0xF0 = 0x00) lo⟩
theorem reserved14 (lo : BitVec 2) : Statement (.reserved14 lo) :=
  ⟨_, rfl, (by decide : ∀ x : BitVec 2, (5#6 ++ x : BitVec 8) &&& 0xFC = 0x14) lo⟩
theorem reserved18 (lo : BitVec 3) : Statement (.reserved18 lo) :=
  ⟨_, rfl, (by decide : ∀ x : BitVec 3, (3#5 ++ x : BitVec 8) &&& 0xF8 = 0x18) lo⟩
theorem reserved28 (lo : BitVec 3) : Statement (.reserved28 lo) :=
  ⟨_, rfl, (by decide : ∀ x : BitVec 3, (5#5 ++ x : BitVec 8) &&& 0xF8 = 0x28) lo⟩
theorem reserved38 (lo : BitVec 3) : Statement (.reserved38 lo) :=
  ⟨_, rfl, (by decide : ∀ x : BitVec 3, (7#5 ++ x : BitVec 8) &&& 0xF8 = 0x38) lo⟩
theorem reserved41 : Statement .reserved41 :=
  ⟨_, rfl, (by decide : 0x41#8 &&& 0xFF#8 = 0x41)⟩
theorem reserved42 (lo : BitVec 1) : Statement (.reserved42 lo) :=
  ⟨_, rfl, (by decide : ∀ x : BitVec 1, (33#7 ++ x : BitVec 8) &&& 0xFE = 0x42) lo⟩
theorem reserved44 (lo : BitVec 2) : Statement (.reserved44 lo) :=
  ⟨_, rfl, (by decide : ∀ x : BitVec 2, (17#6 ++ x : BitVec 8) &&& 0xFC = 0x44) lo⟩
theorem reserved48 (lo : BitVec 3) : Statement (.reserved48 lo) :=
  ⟨_, rfl, (by decide : ∀ x : BitVec 3, (9#5 ++ x : BitVec 8) &&& 0xF8 = 0x48) lo⟩
theorem reserved5B : Statement .reserved5B :=
  ⟨_, rfl, (by decide : 0x5B#8 &&& 0xFF#8 = 0x5B)⟩
theorem reserved5C (lo : BitVec 2) : Statement (.reserved5C lo) :=
  ⟨_, rfl, (by decide : ∀ x : BitVec 2, (23#6 ++ x : BitVec 8) &&& 0xFC = 0x5C) lo⟩
theorem reserved60 (lo : BitVec 5) : Statement (.reserved60 lo) :=
  ⟨_, rfl, (by decide : ∀ x : BitVec 5, (3#3 ++ x : BitVec 8) &&& 0xE0 = 0x60) lo⟩
theorem reserved80 (lo : BitVec 7) : Statement (.reserved80 lo) :=
  ⟨_, rfl, (by decide : ∀ x : BitVec 7, (1#1 ++ x : BitVec 8) &&& 0x80 = 0x80) lo⟩
theorem txacc : Statement .txacc := by
  simp [Statement, row, encode]
theorem rx (b : Byte) : Statement (.rx b) := by
  simp [Statement, row, encode]
theorem tick : Statement .tick := by
  simp [Statement, row, encode]
theorem reset : Statement .reset := by
  simp [Statement, row, encode]
theorem cmdPowerOn : Statement .cmdPowerOn :=
  ⟨_, rfl, (by decide : 0x10#8 &&& 0xFF#8 = 0x10)⟩
theorem cmdPowerOff : Statement .cmdPowerOff :=
  ⟨_, rfl, (by decide : 0x10#8 &&& 0xFF#8 = 0x10)⟩
theorem cmdZoomIn (s : Byte) : Statement (.cmdZoomIn s) :=
  ⟨_, rfl, (by decide : 0x10#8 &&& 0xFF#8 = 0x10)⟩
theorem cmdZoomStop : Statement .cmdZoomStop :=
  ⟨_, rfl, (by decide : 0x10#8 &&& 0xFF#8 = 0x10)⟩
theorem cmdMove (v1 v2 d1 d2 : Byte) : Statement (.cmdMove v1 v2 d1 d2) :=
  ⟨_, rfl, (by decide : 0x10#8 &&& 0xFF#8 = 0x10)⟩
theorem cmdMoveStop : Statement .cmdMoveStop :=
  ⟨_, rfl, (by decide : 0x10#8 &&& 0xFF#8 = 0x10)⟩
theorem cmdHome : Statement .cmdHome :=
  ⟨_, rfl, (by decide : 0x10#8 &&& 0xFF#8 = 0x10)⟩
theorem cmdPtReset : Statement .cmdPtReset :=
  ⟨_, rfl, (by decide : 0x10#8 &&& 0xFF#8 = 0x10)⟩
theorem cmdPresetRecall (ss : Byte) : Statement (.cmdPresetRecall ss) :=
  ⟨_, rfl, (by decide : 0x10#8 &&& 0xFF#8 = 0x10)⟩
theorem cmdPresetStore (ss : Byte) : Statement (.cmdPresetStore ss) :=
  ⟨_, rfl, (by decide : 0x10#8 &&& 0xFF#8 = 0x10)⟩
theorem inqPower : Statement .inqPower :=
  ⟨_, rfl, (by decide : 0x12#8 &&& 0xFF#8 = 0x12)⟩
theorem inqPantiltPos : Statement .inqPantiltPos :=
  ⟨_, rfl, (by decide : 0x12#8 &&& 0xFF#8 = 0x12)⟩
theorem inqVersion : Statement .inqVersion :=
  ⟨_, rfl, (by decide : 0x12#8 &&& 0xFF#8 = 0x12)⟩
theorem inqRedGain : Statement .inqRedGain :=
  ⟨_, rfl, (by decide : 0x12#8 &&& 0xFF#8 = 0x12)⟩
theorem hdrOut (a : DevAddr) : Statement (.hdrOut a) := by
  simp [Statement, row, encode]
theorem hdrIn (a : DevAddr) (x : BitVec 4) : Statement (.hdrIn a x) := by
  simp [Statement, row, encode]
theorem term (dir : Direction) : Statement (.term dir) := by
  cases dir <;> simp [Statement, row, encode]
theorem rspAck (h : Byte) : Statement (.rspAck h) := by
  simp [Statement, row, encode, rxFrame]
theorem rspCompletion (h : Byte) : Statement (.rspCompletion h) := by
  simp [Statement, row, encode, rxFrame]
theorem rspInquiryReply (h : Byte) (r : List Byte) : Statement (.rspInquiryReply h r) := by
  simp [Statement, row, encode, rxFrame]
theorem rspSyntaxError (h : Byte) : Statement (.rspSyntaxError h) := by
  simp [Statement, row, encode, rxFrame]
theorem rspNotExecutable (h : Byte) : Statement (.rspNotExecutable h) := by
  simp [Statement, row, encode, rxFrame]
theorem rspOther (h : Byte) (p : List Byte) : Statement (.rspOther h p) := by
  simp [Statement, row, encode, rxFrame]

end Sys2Proof.Laws.OpcodeRow
end

