-- ==== Sys2Proof/Tests/Slice0.lean ====
section
/-!
SUPPORT. The model's own tests: ill-formed terms that WellFormed refuses, op words written out from 30_encoding.md
R102 and R115 that decode to their instructions, one or two single-step tests per instruction with the values of
spec/95_test_vectors.md, and a witness for every statement that has hypotheses.
-/

namespace Sys2Proof.Tests

open Sys2Proof Sys2Proof.Machine

/-! ## Helpers -/

/-- The block of the programs in 95_test_vectors.md: REASSEMBLY = OFF, DIGIT_MODE = LOW_NIBBLE. -/
def offLow : Params := { reassembly := .off, digitMode := .lowNibble, ticksPerUnit := 1, settleReset := 0, pollReset := 0 }

/-- The same block with REASSEMBLY = ON and DIGIT_MODE = FULL_BYTE. -/
def onFull : Params := { offLow with reassembly := .on, digitMode := .fullByte }

def blank : State := State.resetOf offLow
def blankOn : State := State.resetOf onFull

/-- A state of the sending of `81 09 04 00 FF`, before any byte is taken. -/
def sending : State :=
  { blank with
    fsm := .send, latKind := .inq, latAddr := 1, latTimeout := 10, latPoll := 2,
    txbuf := padBytes 16 [0x81, 0x09, 0x04, 0x00, 0xFF], txLen := 5 }

/-- The same with one byte left. -/
def lastByte : State := { sending with txIdx := 4 }

/-- An inquiry to device 1 that waits, with a poll due at the next tick. -/
def waiting : State :=
  { blank with fsm := .wait, latKind := .inq, latAddr := 1, latTimeout := 3, latPoll := 1 }

/-- A finished transaction. -/
def finished : State := { blank with fsm := .done }

/-- One field of the next state, if the instruction answers one. -/
def after {α : Type} (i : Instr) (s : State) (f : State → α) : Option α :=
  match exec i s with
  | .next t => some (f t)
  | .fault _ => none
  | .refused _ => none

/-- An op-port tuple as the programs of 95_test_vectors.md write it. -/
def port (op : BitVec 8) (arg : Word) (len : BitVec 4) (d : List Byte) : Input :=
  .hostOp { op := op, arg := arg, len := len, data := padBytes 15 d }

/-! ## WellFormed refuses -/

theorem test_wf_data_too_long : (Instr.reqCmd (List.replicate 16 0)).wf = false := by decide
theorem test_wf_payload_too_long : (Instr.classify (List.replicate 16 0)).wf = false := by decide
theorem test_wf_template_too_long : (Instr.frameEnc 1 (List.replicate 16 0)).wf = false := by decide
theorem test_wf_chunk_too_long : (Instr.split (List.replicate 16 0)).wf = false := by decide
theorem test_wf_zoom_speed : (Instr.cmdZoomIn 8).wf = false := by decide
theorem test_wf_move_speed : (Instr.cmdMove 0x19 1 1 1).wf = false := by decide
theorem test_wf_move_direction : (Instr.cmdMove 1 1 1 0xFF).wf = false := by decide
theorem test_wf_preset_recall : (Instr.cmdPresetRecall 0xFF).wf = false := by decide
theorem test_wf_preset_store : (Instr.cmdPresetStore 0xFF).wf = false := by decide
theorem test_wf_header_out : (Instr.hdrOut 0).wf = false := by decide
theorem test_wf_header_in : (Instr.hdrIn 7 15).wf = false := by decide
theorem test_wf_reply_header : (Instr.rspAck 0xFF).wf = false := by decide
theorem test_wf_reply_too_long : (Instr.rspInquiryReply 0x90 (List.replicate 14 0)).wf = false := by decide
theorem test_wf_reply_terminator : (Instr.rspInquiryReply 0x90 [0xFF]).wf = false := by decide
theorem test_wf_other_empty : (Instr.rspOther 0x90 []).wf = false := by decide
theorem test_wf_other_known_shape : (Instr.rspOther 0x90 [0x41]).wf = false := by decide

/-! ## Decoding: op values and operands from R102 and R115 -/

theorem test_decode_reqCmd : decode (port 0x10 0 4 [0x01, 0x06, 0x04, 0xFF]) = .reqCmd [0x01, 0x06, 0x04, 0xFF] := by
  decide
theorem test_decode_reqCmdWait : decode (port 0x11 0 5 [0x01, 0x04, 0x07, 0x23, 0xFF]) =
    .reqCmdWait [0x01, 0x04, 0x07, 0x23, 0xFF] := by decide
theorem test_decode_reqInq : decode (port 0x12 0 4 [0x09, 0x04, 0x00, 0xFF]) = .reqInq [0x09, 0x04, 0x00, 0xFF] := by
  decide
theorem test_decode_reqK3 : decode (port 0x13 0 1 [0xFF]) = .reqK3 [0xFF] := by decide
theorem test_decode_cfgw : decode (port 0x24 0x32 0 []) = .cfgw 4 0x32 := by decide
theorem test_decode_cfgw_bounds : decode (port 0x20 1 0 []) = .cfgw 0 1 ∧ decode (port 0x27 1 0 []) = .cfgw 7 1 := by
  decide
theorem test_decode_cfgr : decode (port 0x36 0 0 []) = .cfgr 6 := by decide
theorem test_decode_cfgr_bounds : decode (port 0x30 0 0 []) = .cfgr 0 ∧ decode (port 0x37 0 0 []) = .cfgr 7 := by decide
theorem test_decode_take : decode (port 0x40 0 0 []) = .take := by decide
theorem test_decode_nibSplit : decode (port 0x50 0x1234 4 []) = .nibSplit 0x1234 4 := by decide
theorem test_decode_nibCombine : decode (port 0x51 0 2 [0x0F, 0x0F]) = .nibCombine [0x0F, 0x0F] := by decide
theorem test_decode_nibField : decode (port 0x52 0x23 5 [0x50, 0x00, 0x00, 0x01, 0x0E]) =
    .nibField [0x50, 0x00, 0x00, 0x01, 0x0E] 3 2 := by decide
theorem test_decode_decBool : decode (port 0x53 0 2 [0x50, 0x02]) = .decBool [0x50, 0x02] := by decide
theorem test_decode_decNumreg : decode (port 0x54 0 1 [0x50]) = .decNumreg [0x50] := by decide
theorem test_decode_decPantilt : decode (port 0x55 0 9 [0x50, 1, 2, 3, 4, 0, 0, 0, 1]) =
    .decPantilt [0x50, 1, 2, 3, 4, 0, 0, 0, 1] := by decide
theorem test_decode_decVersion : decode (port 0x56 0 1 [0x50]) = .decVersion [0x50] := by decide
theorem test_decode_classify : decode (port 0x57 0 2 [0x60, 0x02]) = .classify [0x60, 0x02] := by decide
theorem test_decode_frameEnc : decode (port 0x58 9 4 [0x01, 0x06, 0x04, 0xFF]) =
    .frameEnc 1 [0x01, 0x06, 0x04, 0xFF] := by decide
theorem test_decode_addrDec : decode (port 0x59 0x190 0 []) = .addrDec 0x90 := by decide
theorem test_decode_split : decode (port 0x5A 0 3 [0x90, 0x41, 0xFF]) = .split [0x90, 0x41, 0xFF] := by decide
/-- Bytes at and above `len` are ignored (R100). -/
theorem test_decode_len_cuts_data : decode (port 0x57 0 1 [0x41, 0x99, 0x99]) = .classify [0x41] := by decide
/-- The bounds of every reserved range of R102. -/
theorem test_decode_reserved : ∀ op ∈ ([0x00, 0x0F, 0x14, 0x17, 0x18, 0x1F, 0x28, 0x2F, 0x38, 0x3F, 0x41, 0x42, 0x43,
    0x44, 0x47, 0x48, 0x4F, 0x5B, 0x5C, 0x5F, 0x60, 0x7F, 0x80, 0xFF] : List (BitVec 8)),
    isReserved (decode (port op 0 0 [])) = true := by decide
theorem test_decode_reserved_rows : decode (port 0x0F 0 0 []) = .reserved00 0xF ∧
    decode (port 0x14 0 0 []) = .reserved14 0 ∧ decode (port 0x1F 0 0 []) = .reserved18 7 ∧
    decode (port 0x28 0 0 []) = .reserved28 0 ∧ decode (port 0x38 0 0 []) = .reserved38 0 ∧
    decode (port 0x41 0 0 []) = .reserved41 ∧ decode (port 0x43 0 0 []) = .reserved42 1 ∧
    decode (port 0x46 0 0 []) = .reserved44 2 ∧ decode (port 0x49 0 0 []) = .reserved48 1 ∧
    decode (port 0x5B 0 0 []) = .reserved5B ∧ decode (port 0x5E 0 0 []) = .reserved5C 2 ∧
    decode (port 0x7F 0 0 []) = .reserved60 0x1F ∧ decode (port 0xFF 0 0 []) = .reserved80 0x7F := by decide
theorem test_decode_events : decode .txAccept = .txacc ∧ decode (.rxByte 0x90) = .rx 0x90 ∧ decode .tick = .tick ∧
    decode .reset = .reset := by decide

/-- A number wider than the op port's tuple is not an operation. -/
theorem test_decode_wider_than_port : decodeTableWord 172 (2 ^ 164) = none := by decide

/-! ## Encoding -/

theorem test_encode_cfgw : encode (.cfgw 2 1) = [port 0x22 1 0 []] := by decide
theorem test_encode_nibField : encode (.nibField [0x50] 3 2) = [port 0x52 0x23 1 [0x50]] := by decide
theorem test_encode_inqPower : encode .inqPower = [port 0x12 0 4 [0x09, 0x04, 0x00, 0xFF]] := by decide
theorem test_encode_zoom : encode (.cmdZoomIn 3) = [port 0x10 0 5 [0x01, 0x04, 0x07, 0x23, 0xFF]] := by decide
theorem test_encode_reply : encode (.rspSyntaxError 0xB0) =
    [.rxByte 0xB0, .rxByte 0x60, .rxByte 0x02, .rxByte 0xFF] := by decide
theorem test_encode_headers : outHeader 7 = 0x87 ∧ inHeader 1 0 = 0x90 ∧ inHeader 7 0xE = 0xFE := by decide
theorem test_pack_unpack : packHostOp { op := 0x22, arg := 1, len := 0, data := padBytes 15 [] } = 0x122 := by decide
/-- `@RX 90 41 FF` and `@TICK 2` of R116. -/
theorem test_assemble : assemble [.rxBytes [0x90, 0x41], .ticks 2, .instr .take] =
    some [.rxByte 0x90, .rxByte 0x41, .tick, .tick, port 0x40 0 0 []] := by decide
/-- Nothing is written for an operand outside its range (R236). -/
theorem test_assemble_refuses : assemble [.instr (.cmdZoomIn 8)] = none := by decide

/-! ## Requests (95_test_vectors.md sections 6 and 10) -/

theorem test_reqInq_accepted : after (.reqInq [0x09, 0x04, 0x00, 0xFF]) blank
    (fun t => (t.fsm, t.latKind, t.latAddr, t.txFrame)) =
      some (.send, .inq, 1, [0x81, 0x09, 0x04, 0x00, 0xFF]) := by decide
theorem test_reqCmd_no_terminator : after (.reqCmd [0x01, 0x04, 0x00, 0x02]) blank State.rspInfoWord =
    some 0x00013023 := by decide
theorem test_reqCmd_interior : after (.reqCmd [0x01, 0xFF, 0x00, 0xFF]) blank (fun t => t.rsp.reason) =
    some .interiorTerminator := by decide
theorem test_reqCmdWait_shortest : after (.reqCmdWait [0xFF]) blank (fun t => (t.fsm, t.txFrame)) =
    some (.send, [0x81, 0xFF]) := by decide
theorem test_reqCmdWait_empty : after (.reqCmdWait []) blank (fun t => (t.fsm, t.rsp.reason)) =
    some (.done, .badLength) := by decide
theorem test_reqK3_empty : after (.reqK3 []) blank (fun t => (t.fsm, t.rsp.reason)) =
    some (.done, .reservedKind) := by decide
theorem test_reqK3_held : after (.reqK3 []) finished (fun t => (t.fsm, t.held)) =
    some (.done, [⟨.reserved3, []⟩]) := by decide

/-! ## Configuration access and RSP_TAKE (95_test_vectors.md section 7) -/

theorem test_cfgw_ctrl_zero : after (.cfgw 0 0) { blank with targetAddr := 2, diagEn := true } State.ctrlWord =
    some 2 := by decide
theorem test_cfgw_geom : after (.cfgw 4 0xF3) blank State.geomWord = some 0x43 := by decide
theorem test_cfgr_status : after (.cfgr 5) { finished with rxFifo := [0x90, 0x41, 0xFF, 0x90, 0x51, 0xFF] }
    (fun t => t.outputs) = some [.result (.rdata 0x00060004)] := by decide
theorem test_cfgr_seven : after (.cfgr 7) blank (fun t => t.outputs) = some [.result (.rdata 0)] := by decide
theorem test_take_done : after .take finished (fun t => t.fsm) = some .idle := by decide
theorem test_take_wait : after .take waiting (fun t => t.fsm) = some .wait := by decide
theorem test_reset_registers : (blankOn.cfgRead 5, blankOn.cfgRead 0, blankOn.cfgRead 4, blankOn.cfgRead 1) =
    (0x00000300, 0x1, 0x44, 2) := by decide

/-! ## Value codec (95_test_vectors.md section 3) -/

theorem test_nibSplit : nibSplitResult 0x12345 4 = .nibbles true [0x02, 0x03, 0x04, 0x05] := by decide
theorem test_nibSplit_nine : nibSplitResult 7 9 = .nibbles false [] := by decide
theorem test_nibCombine_low : nibCombineResult .lowNibble [0x12, 0x34] = .value true 0x24 := by decide
theorem test_nibCombine_full : nibCombineResult .fullByte (List.replicate 8 0xFF) = .value true 0x10FFFFFFEF := by
  decide
theorem test_nibField : nibFieldResult .lowNibble [0x50, 0x00, 0x00, 0x01, 0x0E] 3 2 = .value true 0x1E := by decide
theorem test_nibField_past_end : nibFieldResult .lowNibble [0x50, 0x00, 0x00, 0x01, 0x0E] 4 2 = .value false 0 := by
  decide
theorem test_decBool_true : after (.decBool [0x50, 0x02]) waiting (fun t => (t.fsm, t.outputs)) =
    some (.wait, [.result (.tri .isTrue)]) := by decide
theorem test_decBool_longer : decBoolResult [0x50, 0x02, 0x00] = .tri .unknown := by decide
theorem test_decNumreg_full : decNumregResult .fullByte [0x50, 0x00, 0x00, 0x1A, 0x0B] = .value true 0x1AB := by decide
theorem test_decNumreg_short : decNumregResult .lowNibble [0x50, 0x00, 0x00, 0x01] = .value false 0 := by decide
theorem test_decPantilt : after (.decPantilt [0x50, 1, 2, 3, 4, 0, 0, 0, 1]) { blank with panNib := 2, tiltNib := 3 }
    (fun t => t.outputs) = some [.result (.panTilt true 0x12 0x340)] := by decide
theorem test_decPantilt_short : decPantiltResult .lowNibble 4 4 [0x50, 1, 2, 3, 4, 0, 0, 0] = .panTilt false 0 0 := by
  decide
theorem test_decVersion : decVersionResult .fullByte [0x50, 0x01, 0x10, 0x00, 0x04, 0x01, 0x02, 0x02] =
    .version true 0x20 4 0x12 2 := by decide
theorem test_decVersion_short : decVersionResult .lowNibble [0x50, 0x00, 0x02, 0x00, 0x04, 0x01, 0x02] =
    .version false 0 0 0 0 := by decide

/-! ## Frame codec and classifier (95_test_vectors.md sections 4 and 5) -/

theorem test_classify : ([[0x60, 0x02], [0x61, 0x41], [0x41], [0x51], [0x50], [0x41, 0x00], [0x05, 0x50], []].map
    fun p => (classify p).code) = [4, 5, 1, 2, 3, 0, 0, 0] := by decide
theorem test_classify_length : classifyResult [0x50, 0x00, 0x00, 0x01, 0x0E] = .kind .inquiryReply 4 := by decide
theorem test_frameEnc : frameEncResult 7 [0x09, 0x04, 0x00, 0xFF] = .frame [0x87, 0x09, 0x04, 0x00, 0xFF] 5 := by
  decide
theorem test_frameEnc_unchecked : frameEncResult 2 [0x01, 0xFF, 0x00, 0xFF] =
    .frame [0x82, 0x01, 0xFF, 0x00, 0xFF] 5 := by decide
theorem test_addrDec : ([0x90, 0x9F, 0xF0, 0x81, 0x7F].map addrDecResult) =
    [.address true 1, .address true 1, .address true 7, .address true 0, .address false 0] := by decide
theorem test_split_merge : splitResult [0x90, 0x41, 0x90, 0x51, 0xFF] = .frames 1 [⟨0x90, 3, [0x41, 0x90, 0x51]⟩] := by
  decide
theorem test_split_empty_fragments : splitResult [0xFF, 0xFF, 0x90, 0xFF] = .frames 0 [] := by decide
theorem test_reassemble_sixteenth : reassembleFrames [] false (0x90 :: List.replicate 15 0) =
    { frag := [], discard := true, overflow := true, frames := [] } := by decide
theorem test_reassemble_resumes : reassembleFrames [] true [0x00, 0x00, 0xFF, 0x90, 0x51, 0xFF] =
    { frag := [], discard := false, overflow := false, frames := [⟨0x90, [0x51]⟩] } := by decide
theorem test_oversize : hasOversize (0x90 :: (List.replicate 15 0 ++ [0xFF])) = true ∧
    hasOversize (0x90 :: (List.replicate 14 0 ++ [0xFF])) = false := by decide

/-! ## Reserved operations (R103) -/

theorem test_reserved_wait : after (.reserved14 0) waiting (fun t => (t.fsm, t.badOp, t.outputs)) =
    some (.wait, true, []) := by decide
theorem test_reserved_status : after (.reserved80 0x7F) blank State.statusWord = some 0x20 := by decide

/-! ## Events (95_test_vectors.md section 7 and programs P1 to P5) -/

theorem test_txacc_first : after .txacc sending (fun t => (t.fsm, t.txIdx, t.wire)) = some (.send, 1, [0x81]) := by
  decide
theorem test_txacc_last_enters_wait : after .txacc lastByte (fun t => (t.fsm, t.wire)) = some (.wait, [0xFF]) := by
  decide
theorem test_rx : after (.rx 0x90) blank (fun t => (t.fsm, t.rxFifo)) = some (.idle, [0x90]) := by decide
/-- P5, line 8: the diagnostic event, then the error reply; what follows is discarded. -/
theorem test_tick_diag_then_error : after .tick
    { waiting with
      latAddr := 3, diagEn := true,
      rxFifo := [0xB0, 0x42, 0xFF, 0xB0, 0x60, 0x02, 0xFF, 0xB0, 0x50, 0x00, 0x00, 0x01, 0x0E, 0xFF] }
    (fun t => (t.rspInfoWord, t.diags.head?.map fun (a, n, q) => (a, n, q.toList.take 1))) =
      some (0x00010271, some (3, 1, [0x42])) := by decide
/-- P4, line 7: without REASSEMBLY the tail of a chunk is a frame; with it, it waits. -/
theorem test_tick_tail : after .tick { waiting with rxFifo := [0x90, 0x50] } (fun t => (t.fsm, t.rsp.len)) =
      some (.done, 1) ∧
    after .tick { waiting with params := onFull, rxFifo := [0x90, 0x50] } (fun t => (t.fsm, t.frag)) =
      some (.wait, [0x90, 0x50]) := by decide
/-- P7, line 4. -/
theorem test_reset_mid_frame : after .reset { sending with txIdx := 2, rxFifo := [0x90], outputs := [.txByte 0x81] }
    (fun t => (t.fsm, t.rxFifo, t.statusWord, t.records, t.wire)) = some (.idle, [], 0, [], [0x81]) := by decide

/-! ## Catalog (95_test_vectors.md S14 and S16) -/

theorem test_cmdPowerOn : after .cmdPowerOn blank State.txFrame = some [0x81, 0x01, 0x04, 0x00, 0x02, 0xFF] := by decide
theorem test_cmdPowerOff : after .cmdPowerOff blank State.txFrame = some [0x81, 0x01, 0x04, 0x00, 0x03, 0xFF] := by
  decide
theorem test_cmdZoomIn : after (.cmdZoomIn 7) blank State.txFrame = some [0x81, 0x01, 0x04, 0x07, 0x27, 0xFF] := by
  decide
theorem test_cmdZoomIn_eight : exec (.cmdZoomIn 8) blank = .refused .operandOutOfRange := by rfl
theorem test_cmdZoomStop : after .cmdZoomStop blank State.txFrame = some [0x81, 0x01, 0x04, 0x07, 0x00, 0xFF] := by
  decide
theorem test_cmdMove : after (.cmdMove 0x10 0x08 0x03 0x03) blank State.txFrame =
    some [0x81, 0x01, 0x06, 0x01, 0x10, 0x08, 0x03, 0x03, 0xFF] := by decide
theorem test_cmdMove_speed : exec (.cmdMove 0x19 1 1 1) blank = .refused .operandOutOfRange := by rfl
theorem test_cmdMoveStop : after .cmdMoveStop blank State.txFrame =
    some [0x81, 0x01, 0x06, 0x01, 0x01, 0x01, 0x03, 0x03, 0xFF] := by decide
theorem test_cmdHome : after .cmdHome blank (fun t => (t.latKind, t.txFrame)) =
    some (.cmd, [0x81, 0x01, 0x06, 0x04, 0xFF]) := by decide
theorem test_cmdPtReset : after .cmdPtReset blank State.txFrame = some [0x81, 0x01, 0x06, 0x05, 0xFF] := by decide
theorem test_cmdPresetRecall : after (.cmdPresetRecall 5) { blank with targetAddr := 2 } State.txFrame =
    some [0x82, 0x01, 0x04, 0x3F, 0x02, 0x05, 0xFF] := by decide
theorem test_cmdPresetStore : after (.cmdPresetStore 0) blank State.txFrame =
    some [0x81, 0x01, 0x04, 0x3F, 0x01, 0x00, 0xFF] := by decide
theorem test_inqPower : after .inqPower blank (fun t => (t.latKind, t.txFrame)) =
    some (.inq, [0x81, 0x09, 0x04, 0x00, 0xFF]) := by decide
theorem test_inqPantiltPos : after .inqPantiltPos blank State.txFrame = some [0x81, 0x09, 0x06, 0x12, 0xFF] := by decide
theorem test_inqVersion : after .inqVersion blank State.txFrame = some [0x81, 0x09, 0x00, 0x02, 0xFF] := by decide
theorem test_inqRedGain : after .inqRedGain { blank with targetAddr := 3 } State.txFrame =
    some [0x83, 0x09, 0x04, 0x43, 0xFF] := by decide

/-! ## Wire bytes and reply frames -/

theorem test_hdrOut : after (.hdrOut 1) sending (fun t => (t.txIdx, t.wire)) = some (1, [0x81]) := by decide
theorem test_hdrOut_not_offered : after (.hdrOut 2) sending (fun t => (t.txIdx, t.wire)) = some (0, []) := by decide
theorem test_hdrIn : after (.hdrIn 3 0) blank (fun t => t.rxFifo) = some [0xB0] := by decide
theorem test_term_inbound : after (.term .inbound) blank (fun t => t.rxFifo) = some [0xFF] := by decide
theorem test_term_outbound : after (.term .outbound) { lastByte with latSettle := 1 } (fun t => (t.fsm, t.wire)) =
    some (.settle, [0xFF]) := by decide
theorem test_rspAck : after (.rspAck 0x90) blank (fun t => t.rxFifo) = some [0x90, 0x41, 0xFF] := by decide
theorem test_rspCompletion : after (.rspCompletion 0x90) blank (fun t => t.rxFifo) = some [0x90, 0x51, 0xFF] := by
  decide
theorem test_rspInquiryReply : after (.rspInquiryReply 0x90 [0x02]) blank (fun t => t.rxFifo) =
    some [0x90, 0x50, 0x02, 0xFF] := by decide
theorem test_rspSyntaxError : after (.rspSyntaxError 0xB0) blank (fun t => t.rxFifo) =
    some [0xB0, 0x60, 0x02, 0xFF] := by decide
theorem test_rspNotExecutable : after (.rspNotExecutable 0x90) blank (fun t => t.rxFifo) =
    some [0x90, 0x61, 0x41, 0xFF] := by decide
theorem test_rspOther : after (.rspOther 0xB0 [0x42]) blank (fun t => t.rxFifo) = some [0xB0, 0x42, 0xFF] := by decide

/-! ## Ports -/

/-- The fixed order of R80. -/
theorem test_cycle_order : Cycle.inputs
    { reset := true, rx := some 0x90, txAccept := true, tick := true, host := none } =
      [.reset, .rxByte 0x90, .txAccept, .tick] := by decide
/-- R342: the same error reply is a failure of an INQ and an error reply of a CMD_WAIT. -/
theorem test_verdict : verdict .inq (mkRsp .resolved .inquiryReply 1 [0x50, 0x02] .none) = .success ∧
    verdict .inq (mkRsp .resolved .syntaxError 1 [0x60, 0x02] .none) = .failure ∧
    verdict .cmdWait (mkRsp .resolved .syntaxError 1 [0x60, 0x02] .none) = .errorReply ∧
    verdict .cmdWait (mkRsp .resolved .acknowledge 1 [0x41] .none) = .deviceReply ∧
    verdict .cmdWait (mkRsp .timeout .other 1 [] .none) = .failure ∧
    verdict .cmd (mkRsp .sent .other 1 [] .none) = .sent := by decide
/-- R13: bytes left in the FIFO and a tick to come do not matter; an operation of the host does. -/
theorem test_at_end : ({ finished with rxFifo := [0x90], inputs := [.tick] } : State).atEnd = true ∧
    ({ finished with inputs := [.tick, port 0x40 0 0 []] } : State).atEnd = false ∧
    ({ finished with held := [⟨.cmd, []⟩] } : State).atEnd = false ∧ waiting.atEnd = false := by decide
/-- The parameters of R7 that are derived from others. -/
theorem test_parameters : Config.maxTemplate = Config.maxFrame - 1 ∧ Config.maxPayload = Config.maxFrame - 2 ∧
    Config.addrMax < 2 ^ Config.addrBits ∧ Config.addrMin = 1 := by decide
theorem test_parameter_widths : DevAddr = BitVec Config.addrBits ∧ Word = BitVec Config.regWidth := ⟨rfl, rfl⟩
theorem test_reset_ports : (blank.txValid, blank.rspValid, blank.reqReady) = (false, false, true) := by decide

/-! ## Witnesses: for every statement with hypotheses, a state and operands that meet them together -/

/-- A valid template: the power inquiry of R232. -/
theorem power_template_valid : validTemplate [0x09, 0x04, 0x00, 0xFF] := ⟨[0x09, 0x04, 0x00], by decide⟩
/-- The shortest and the longest template of R112. -/
theorem bounds_template_valid : validTemplate [0xFF] ∧ validTemplate (List.replicate 14 0x01 ++ [0xFF]) :=
  ⟨⟨[], by decide⟩, ⟨List.replicate 14 0x01, by decide⟩⟩

theorem sending_inv : Inv sending where
  params := by decide
  target := by decide
  panNib := by decide
  tiltNib := by decide
  fifo := by decide
  fragLength := by decide
  fragClean := by decide
  fragDropped := by decide
  fragAbsent := by decide
  latKind := by decide
  latAddr := by decide
  txLen := by decide
  txIdx := by decide
  sending := by decide
  txFrame := fun _ => ⟨_, power_template_valid, by decide⟩
  settling := by decide
  waiting := by decide
  rspEmpty := by decide
  rspFull := by decide
  rspPadding := by decide
  rspReason := by decide
  rspDone := by decide

theorem witness_EncodedInstructionsDecodeBack : (Instr.cmdMove 0x18 0x18 0xFE 0xFE).wf = true ∧
    (Instr.reqCmd (List.replicate 15 0)).wf = true ∧ (Instr.rspInquiryReply 0xFE (List.replicate 13 0)).wf = true := by
  decide
/-- The last register index of each kind of access, and the bounds of the reserved ranges; `test_decode_…` above have
a word for every clause. -/
theorem witness_OperationMapCoversEveryOp : (0x27 : Byte).toNat = 0x20 + (7 : BitVec 3).toNat ∧
    (0x37 : Byte).toNat = 0x30 + (7 : BitVec 3).toNat ∧ (0x0F : Byte).toNat ≤ 0x0F ∧ 0x14 ≤ (0x14 : Byte).toNat ∧
    (0x4F : Byte).toNat ≤ 0x4F ∧ 0x5B ≤ (0x5B : Byte).toNat := by decide
theorem witness_StepRunsTheDecodedEvent :
    (blank.fsm = .idle ∧ ({ blank with held := [⟨.cmd, []⟩] } : State).held = ⟨.cmd, []⟩ :: []) ∧
    (finished.fsm ≠ .idle ∧ ({ finished with inputs := [.tick] } : State).inputs = .tick :: []) ∧
    (blank.held = [] ∧ blank.inputs = []) := by decide
theorem witness_PlacedWordRunsNext : decodeTableWord 8 0x36 = some (.cfgr 6) ∧ decodeTableWord 8 0x40 = some .take := by
  decide
/-- A cycle with a RESET, and legal build parameters up to the bound of log 4. -/
theorem witness_ResetGivesEveryElementItsResetValue : (Cycle.mk true (some 0x90) true true none).reset = true ∧
    blank.params.wf = true ∧
    ({ blank with params := { offLow with ticksPerUnit := 2147483647 } } : State).params.wf = true := by
  decide
theorem witness_ResetStateMeetsTheInvariant : offLow.wf = true ∧ onFull.wf = true ∧
    ({ offLow with ticksPerUnit := 2147483647 } : Params).wf = true := by decide
theorem witness_StepKeepsTheInvariant : Inv sending ∧ ∃ t, step { sending with inputs := [.txAccept] } = .next t :=
  ⟨sending_inv, _, rfl⟩
theorem witness_ReservedOpSetsOnlyBadOp : isReserved (.reserved00 0) = true ∧ isReserved .reserved5B = true ∧
    isReserved (.reserved80 0x7F) = true := by decide
theorem witness_StatusFieldsReadAndClear : ({ blank with rxFifo := List.replicate 256 0 } : State).rxFifo.length ≤ 256 :=
  (List.length_replicate (n := 256) (a := (0 : Byte))).le
theorem witness_TakeReturnsDoneToIdle : finished.fsm = .done ∧ waiting.fsm ≠ .done := by decide
theorem witness_ValidRequestIsAccepted : blank.fsm = .idle ∧ ReqKind.inq ≠ .reserved3 ∧
    validTemplate [0x09, 0x04, 0x00, 0xFF] := ⟨rfl, by decide, power_template_valid⟩
/-- One template for each clause; no template falls under two clauses with different reasons. -/
theorem witness_InvalidRequestIsRejected : blank.fsm = .idle ∧
    (ReqKind.reserved3 = .reserved3 ∧ Reason.reservedKind.code = 1) ∧
    (ReqKind.cmd ≠ .reserved3 ∧ ([] : List Byte).length = 0 ∧ Reason.badLength.code = 2) ∧
    (ReqKind.cmd ≠ .reserved3 ∧ (List.replicate 16 (0 : Byte)).length > 15 ∧ Reason.badLength.code = 2) ∧
    (ReqKind.cmd ≠ .reserved3 ∧ 1 ≤ ([0x01] : List Byte).length ∧ ([0x01] : List Byte).length ≤ 15 ∧
      ([0x01] : List Byte).getLast? ≠ some 0xFF ∧ Reason.noTerminator.code = 3) ∧
    (ReqKind.cmd ≠ .reserved3 ∧ ([0xFF, 0xFF] : List Byte).length ≤ 15 ∧
      ([0xFF, 0xFF] : List Byte).getLast? = some 0xFF ∧ 0xFF ∈ ([0xFF, 0xFF] : List Byte).dropLast ∧
      Reason.interiorTerminator.code = 4) := by decide
theorem witness_RequestIsHeldOutsideIdle : waiting.fsm ≠ .idle ∧ isRequest (.cmdZoomIn 7) = true ∧
    (Instr.cmdZoomIn 7).wf = true := by decide
theorem witness_CatalogCommandsSendTheirTemplates : blank.fsm = .idle ∧ (0x07 : Byte).toNat ≤ 7 ∧
    (0x18 : Byte).toNat ≤ 0x18 ∧ (0xFE : Byte) ≠ 0xFF ∧ 7 < (0x08 : Byte).toNat ∧ 0x18 < (0x19 : Byte).toNat := by
  decide
theorem witness_CatalogInquiriesSendTheirTemplates : blank.fsm = .idle := by decide
theorem witness_CatalogAdmitsOnlyItsRanges : 7 < (0x08 : Byte).toNat ∧ 0x18 < (0x19 : Byte).toNat ∧
    isCatalog (.cmdPresetStore 0xFE) = true ∧ (Instr.cmdPresetStore 0xFE).wf = true := by decide
theorem witness_SecondNamesRunAsTheirExpansions :
    ((Instr.hdrOut 1).wf = true ∧ sending.offers 0 (0x80#8 + (1 : DevAddr).setWidth 8) = true) ∧
    ((Instr.term .outbound).wf = true ∧ lastByte.offers (lastByte.txLen - 1) 0xFF = true) := by decide
theorem witness_TxAcceptTakesTheOfferedByte :
    (sending.fsm = .send ∧ sending.txIdx.toNat = (0 : Fin 16).val ∧ sending.txIdx + 1 ≠ sending.txLen) ∧
    waiting.fsm ≠ .send := by decide
/-- The last byte of an inquiry to device 1 with TIMEOUT 0, while a reply of device 2 is in the FIFO. -/
def foreignAtEntry : State := { lastByte with latTimeout := 0, rxFifo := [0xA0, 0x50, 0x02, 0xFF] }
theorem foreign_ignored (s : State) (h : s.latAddr = 1) : s.ignores (0xA0, [0x50, 0x02]) :=
  have hd : ¬ FromDevice s.latAddr 0xA0 := by rw [h]; unfold FromDevice; decide
  ⟨⟨by unfold WholeFrame; decide, fun hf => absurd hf hd⟩, fun hr => hd hr.1⟩
theorem foreign_nothingToReport : foreignAtEntry.nothingToReport :=
  .inr ⟨⟨rfl, rfl⟩, [(0xA0, [0x50, 0x02])], by simpa using foreign_ignored foreignAtEntry rfl, rfl⟩
theorem witness_LastByteSettlesFinishesOrWaits :
    (lastByte.fsm = .send ∧ lastByte.txIdx.toNat = (4 : Fin 16).val ∧ lastByte.txIdx + 1 = lastByte.txLen) ∧
    ({ lastByte with latSettle := 1 } : State).latSettle ≠ 0 ∧
    (lastByte.latSettle = 0 ∧ ({ lastByte with latKind := .cmd } : State).latKind = .cmd) ∧
    (lastByte.latSettle = 0 ∧ lastByte.latKind ≠ .cmd ∧ lastByte.nothingToReport ∧ lastByte.latTimeout ≠ 0) ∧
    (foreignAtEntry.nothingToReport ∧ foreignAtEntry.latKind ≠ .cmd ∧ foreignAtEntry.latTimeout = 0) :=
  ⟨by decide, by decide, by decide, ⟨rfl, by decide, .inl rfl, by decide⟩, foreign_nothingToReport, by decide, rfl⟩

/-- The frame `90 50 02 FF` of device 1. -/
theorem reply_frame : WholeFrame 0x90 [0x50, 0x02] ∧ FromDevice 1 0x90 ∧ HasKind [0x50, 0x02] .inquiryReply ∧
    EndsWait .inq .inquiryReply :=
  ⟨by unfold WholeFrame; decide, by unfold FromDevice; decide, ⟨[0x02], rfl⟩, .inr ⟨rfl, .inl rfl⟩⟩

/-- A payload that matches no known shape (95_test_vectors.md section 5). -/
theorem other_kind : HasKind [0x42] .other :=
  ⟨by decide, by decide, fun r h => absurd (List.cons.inj h).1 (by decide), by decide, by decide⟩

/-- Frames to pass over before a qualifying one: a reply of device 2, as in program P2, and, for an inquiry, an Ack of
device 1. -/
theorem foreign_passes (k : ReqKind) : Passes k 1 (0xA0, [0x50, 0x02]) :=
  ⟨by unfold WholeFrame; decide, fun hd => absurd hd (by unfold FromDevice; decide)⟩
theorem ack_passes : Passes .inq 1 (0x90, [0x41]) :=
  ⟨by unfold WholeFrame; decide, fun _ => ⟨.acknowledge, rfl, by unfold EndsWait; decide⟩⟩
/-- The two of them. -/
def passedOver : List (Byte × List Byte) := [(0xA0, [0x50, 0x02]), (0x90, [0x41])]
theorem passedOver_passes : ∀ f ∈ passedOver, Passes .inq 1 f := by
  simpa [passedOver] using ⟨foreign_passes .inq, ack_passes⟩

/-- The stale Ack of R388 and program P3, behind a reply of device 2, with the Completion behind it. -/
theorem witness_StaleFrameResolvesAtWaitEntry :
    ∃ s : State, s.fsm = .send ∧ s.txIdx + 1 = s.txLen ∧ s.latSettle = 0 ∧ s.freshDeframer ∧
      (∀ f ∈ ([(0xA0, [0x50, 0x02])] : List (Byte × List Byte)), Passes s.latKind s.latAddr f) ∧
      s.rxFifo = chunkOf [(0xA0, [0x50, 0x02])] ++ frameBytes 0x90 [0x41] ++ [0x90, 0x51, 0xFF] ∧
      WholeFrame 0x90 [0x41] ∧ FromDevice s.latAddr 0x90 ∧ HasKind [0x41] .acknowledge ∧
      EndsWait s.latKind .acknowledge :=
  ⟨{ lastByte with
      latKind := .cmdWait, rxFifo := [0xA0, 0x50, 0x02, 0xFF, 0x90, 0x41, 0xFF, 0x90, 0x51, 0xFF] }, rfl, rfl, rfl,
    ⟨rfl, rfl⟩, List.forall_mem_singleton.2 (foreign_passes .cmdWait), rfl, by unfold WholeFrame; decide,
    by unfold FromDevice; decide, rfl, .inl ⟨rfl, by decide⟩⟩
theorem witness_SendPutsTheWholeFrameOnTheWire : Inv sending ∧ sending.fsm = .send ∧ sending.txIdx = 0 ∧
    4 < sending.txLen.toNat := ⟨sending_inv, rfl, rfl, by decide⟩
theorem witness_TickOutsideSettleAndWaitDoesNothing : blank.fsm = .idle ∧ sending.fsm = .send ∧ finished.fsm = .done := by
  decide
/-- `A0 50 02 FF 90 41 FF`, then the reply `90 50 02 FF`, then an unterminated `90 41`. -/
def passedThenReply : List Byte := [0xA0, 0x50, 0x02, 0xFF, 0x90, 0x41, 0xFF, 0x90, 0x50, 0x02, 0xFF, 0x90, 0x41]
/-- Settling with one tick to go. -/
def settling : State := { waiting with fsm := .settle, latSettle := 1 }
theorem witness_SettleLastsExactlyItsTicks :
    (settling.fsm = .settle ∧ settling.settleCnt = 0 ∧ settling.latSettle ≠ 0) ∧
    ({ settling with latKind := .cmd } : State).latKind = .cmd ∧
    (settling.latKind ≠ .cmd ∧ settling.nothingToReport ∧ settling.latTimeout ≠ 0) ∧
    (({ settling with latTimeout := 0 } : State).nothingToReport ∧
      ({ settling with latTimeout := 0 } : State).latTimeout = 0) ∧
    (({ settling with rxFifo := passedThenReply } : State).freshDeframer ∧
      (∀ f ∈ passedOver, Passes settling.latKind settling.latAddr f) ∧
      ({ settling with rxFifo := passedThenReply } : State).rxFifo =
        chunkOf passedOver ++ frameBytes 0x90 [0x50, 0x02] ++ [0x90, 0x41] ∧
      WholeFrame 0x90 [0x50, 0x02] ∧ FromDevice settling.latAddr 0x90 ∧ HasKind [0x50, 0x02] .inquiryReply ∧
      EndsWait settling.latKind .inquiryReply) :=
  ⟨by decide, rfl, ⟨by decide, .inl rfl, by decide⟩, ⟨.inl rfl, rfl⟩, ⟨rfl, rfl⟩, passedOver_passes, rfl, reply_frame⟩
theorem witness_TickBetweenPollsOnlyCounts : ∃ s : State, s.fsm = .wait ∧
    s.pollCnt.toNat + 1 < max s.latPoll.toNat 1 := ⟨{ waiting with latPoll := 2 }, by decide⟩
theorem waiting_poll_due : waiting.pollDue := by unfold State.pollDue; decide
/-- One state for each kind of event that polls: a due TICK, the end of SETTLE, and the last byte. -/
theorem waiting_polls : PollEvent .tick waiting
    { waiting with pollCnt := 0, waitCnt := BitVec.ofNat 32 waiting.elapsedNext } :=
  .inl ⟨rfl, waiting_poll_due, rfl⟩
theorem settling_polls : PollEvent .tick settling
    { settling with settleCnt := 1, fsm := .wait, waitCnt := 0, pollCnt := 0 } :=
  .inr (.inl ⟨rfl, rfl, by decide, by decide, rfl⟩)
theorem lastByte_polls : PollEvent .txacc lastByte
    { lastByte with txIdx := 5, fsm := .wait, waitCnt := 0, pollCnt := 0, outputs := [.txByte 0xFF] } :=
  .inr (.inr ⟨rfl, rfl, rfl, rfl, by decide, 4, rfl, rfl⟩)
/-- A chunk in which a foreign frame and an Ack come before the reply; `settling_polls` and `lastByte_polls` are the
other two kinds of event that poll. -/
theorem witness_FirstQualifyingFrameResolves :
    ∃ s b : State, PollEvent .tick s b ∧ s.freshDeframer ∧ (∀ f ∈ passedOver, Passes s.latKind s.latAddr f) ∧
      s.rxFifo = chunkOf passedOver ++ frameBytes 0x90 [0x50, 0x02] ++ [0x90, 0x41] ∧
      WholeFrame 0x90 [0x50, 0x02] ∧ FromDevice s.latAddr 0x90 ∧ HasKind [0x50, 0x02] .inquiryReply ∧
      EndsWait s.latKind .inquiryReply :=
  ⟨{ waiting with rxFifo := passedThenReply }, _, .inl ⟨rfl, waiting_poll_due, rfl⟩, ⟨rfl, rfl⟩, passedOver_passes, rfl,
    reply_frame⟩
/-- The reply of device 2 in program P2. -/
theorem witness_ForeignFramesLeaveNoTrace :
    ∃ s b : State, PollEvent .tick s b ∧ s.freshDeframer ∧
      (∀ f ∈ ([(0xA0, [0x50, 0x02])] : List (Byte × List Byte)), WholeFrame f.1 f.2 ∧ ¬ FromDevice s.latAddr f.1) ∧
      s.rxFifo = chunkOf [(0xA0, [0x50, 0x02])] :=
  ⟨{ waiting with rxFifo := [0xA0, 0x50, 0x02, 0xFF] }, _, .inl ⟨rfl, waiting_poll_due, rfl⟩, ⟨rfl, rfl⟩,
    by unfold WholeFrame FromDevice; decide, rfl⟩
theorem other_passes : Passes .inq 1 (0x90, [0x42]) :=
  ⟨by unfold WholeFrame; decide, fun _ => ⟨.other, other_kind, by unfold EndsWait; decide⟩⟩
theorem other_reported : IsReported 1 true (0x90, [0x42]) := ⟨by unfold FromDevice; decide, other_kind, rfl⟩
theorem ack_not_reported : ¬ IsReported 1 true (0x90, [0x41]) := fun h => h.2.1.1 rfl
/-- The Ack of program P2 inside the window, behind a foreign frame, and two Other frames of the disposition table at the
deadline, around the Ack: both are reported. -/
theorem witness_NonResolvingFramesAreReportedOrIgnored :
    (∃ s b : State, PollEvent .tick s b ∧ s.freshDeframer ∧ (∀ f ∈ passedOver, Passes s.latKind s.latAddr f) ∧
      s.rxFifo = chunkOf passedOver ∧ b.waitCnt.toNat < s.latTimeout.toNat) ∧
    (∃ s b : State, PollEvent .tick s b ∧ s.freshDeframer ∧
      (∀ f ∈ ([(0x90, [0x42]), (0x90, [0x41]), (0x90, [0x42])] : List (Byte × List Byte)),
        Passes s.latKind s.latAddr f) ∧
      s.rxFifo = chunkOf [(0x90, [0x42]), (0x90, [0x41]), (0x90, [0x42])] ∧
      s.latTimeout.toNat = b.waitCnt.toNat ∧
      ∃ q, Reports s.latAddr s.diagEn [(0x90, [0x42]), (0x90, [0x41]), (0x90, [0x42])] [.diag 1 1 q, .diag 1 1 q]) := by
  refine ⟨⟨{ waiting with rxFifo := [0xA0, 0x50, 0x02, 0xFF, 0x90, 0x41, 0xFF] }, _, .inl ⟨rfl, waiting_poll_due, rfl⟩,
      ⟨rfl, rfl⟩, passedOver_passes, rfl, by decide⟩,
    ⟨{ waiting with
        rxFifo := [0x90, 0x42, 0xFF, 0x90, 0x41, 0xFF, 0x90, 0x42, 0xFF], diagEn := true, latTimeout := 1 }, _,
      .inl ⟨rfl, waiting_poll_due, rfl⟩, ⟨rfl, rfl⟩, List.forall_mem_cons.2
        ⟨other_passes, List.forall_mem_cons.2 ⟨ack_passes, List.forall_mem_singleton.2 other_passes⟩⟩, rfl, by decide,
      padBytes 14 [0x42], .event _ other_reported (by unfold DiagField; decide)
        (.silent ack_not_reported (.event _ other_reported (by unfold DiagField; decide) .nil))⟩⟩
/-- The first two frames of program P5, among frames of device 2. -/
theorem witness_DiagnosticComesBeforeResolution :
    ∃ s b : State, PollEvent .tick s b ∧ s.freshDeframer ∧ s.diagEn = true ∧
      (∀ f ∈ ([(0xA0, [0x50, 0x02])] ++ [(0xA0, [0x50, 0x02])] : List (Byte × List Byte)), s.ignores f) ∧
      s.rxFifo = chunkOf [(0xA0, [0x50, 0x02])] ++ frameBytes 0x90 [0x42] ++ chunkOf [(0xA0, [0x50, 0x02])] ++
        frameBytes 0x90 [0x60, 0x02] ++ [0x90] ∧ WholeFrame 0x90 [0x42] ∧
      WholeFrame 0x90 [0x60, 0x02] ∧ FromDevice s.latAddr 0x90 ∧ HasKind [0x42] .other ∧
      HasKind [0x60, 0x02] .syntaxError ∧ EndsWait s.latKind .syntaxError :=
  ⟨{ waiting with
      rxFifo := [0xA0, 0x50, 0x02, 0xFF, 0x90, 0x42, 0xFF, 0xA0, 0x50, 0x02, 0xFF, 0x90, 0x60, 0x02, 0xFF, 0x90]
      diagEn := true }, _, .inl ⟨rfl, waiting_poll_due, rfl⟩, ⟨rfl, rfl⟩, rfl,
    by simpa using foreign_ignored _ rfl, rfl, by unfold WholeFrame; decide, by unfold WholeFrame; decide,
    by unfold FromDevice; decide, other_kind, rfl, .inr ⟨rfl, .inr (.inl rfl)⟩⟩
/-- The states of `waiting_polls`, `settling_polls` and `lastByte_polls` meet the event hypothesis, and each of the
chunks can be in the FIFO: the gate on both sides of TIMEOUT 1, the shortest oversize fragment, and an unterminated
tail (95_test_vectors.md, program P4). -/
theorem witness_PollsHandleEmptyOversizeAndTailChunks :
    (waiting.rxFifo = [] ∧ settling.rxFifo = [] ∧ lastByte.rxFifo = []) ∧
    (waiting.freshDeframer ∧ terminator ∉ 0x90 :: List.replicate 15 (0 : Byte) ∧
      15 < (0x90 :: List.replicate 15 (0 : Byte)).length) ∧
    (waiting.params.reassembly = .off ∧ blankOn.params.reassembly = .on) ∧
    ((∀ f ∈ passedOver, Passes waiting.latKind waiting.latAddr f) ∧
      ([0xA0, 0x50, 0x02, 0xFF, 0x90, 0x41, 0xFF, 0x90, 0x50] : List Byte) = chunkOf passedOver ++ 0x90 :: [0x50] ∧
      WholeFrame 0x90 [0x50] ∧ FromDevice waiting.latAddr 0x90 ∧
      HasKind [0x50] .inquiryReply ∧ EndsWait waiting.latKind .inquiryReply) ∧
    (([[0x90, 0x41], 0x90 :: List.replicate 15 0] : List (List Byte)) ≠ [] ∧
      (∀ f ∈ ([[0x90, 0x41], 0x90 :: List.replicate 15 0] : List (List Byte)), terminator ∉ f)) :=
  ⟨by decide, ⟨⟨rfl, rfl⟩, by decide, by decide⟩, by decide,
    ⟨passedOver_passes, rfl, by unfold WholeFrame; decide, by unfold FromDevice; decide, ⟨[], rfl⟩,
      .inr ⟨rfl, .inl rfl⟩⟩, by decide⟩
/-- Three ticks, which are TIMEOUT + P − 1, with bytes, a frame, a held request and a configuration write among them;
and a poll at the deadline. -/
theorem witness_WaitEndsWithinItsBound :
    (waiting.fsm = .wait ∧ waiting.waitCnt = 0 ∧ waiting.pollCnt = 0 ∧ waiting.latTimeout ≠ 0 ∧
      (∀ i ∈ ([.rx 0x90, .tick, .reqInq [0xFF], .tick, .rspAck 0xA0, .cfgw 1 9, .tick] : List Instr),
        i.wf = true ∧ i ≠ .reset) ∧
      waiting.latTimeout.toNat + max waiting.latPoll.toNat 1 - 1 ≤
        ([.rx 0x90, .tick, .reqInq [0xFF], .tick, .rspAck 0xA0, .cfgw 1 9, .tick] : List Instr).count .tick) ∧
    ∃ s b : State, PollEvent .tick s b ∧ s.latTimeout.toNat ≤ b.waitCnt.toNat :=
  ⟨by decide, { waiting with latTimeout := 1 }, _, .inl ⟨rfl, waiting_poll_due, rfl⟩, by decide⟩
theorem witness_SilentWaitTimesOutAtItsExactTick : waiting.fsm = .wait ∧ waiting.waitCnt = 0 ∧ waiting.pollCnt = 0 ∧
    waiting.latTimeout ≠ 0 ∧ waiting.rxFifo = [] := by decide
theorem witness_AnsweredInquiryDeliversItsReply : blank.fsm = .idle ∧ blank.rxFifo = [] ∧ blank.freshDeframer ∧
    blank.settle = 0 ∧ blank.poll.toNat ≤ 1 ∧ blank.timeout ≠ 0 ∧ validTemplate [0x09, 0x04, 0x00, 0xFF] ∧
    WholeFrame 0x90 (0x50 :: [0x02]) ∧ FromDevice blank.targetAddr 0x90 :=
  ⟨rfl, rfl, ⟨rfl, rfl⟩, rfl, by decide, by decide, power_template_valid, reply_frame.1, reply_frame.2.1⟩
theorem witness_RxByteIsAppendedOrDropped :
    ({ blank with rxFifo := List.replicate 255 0 } : State).rxFifo.length < 256 ∧
    256 ≤ ({ blank with rxFifo := List.replicate 256 0 } : State).rxFifo.length := by
  simp only [List.length_replicate]; decide
theorem witness_WireBytesActAsTheirEvents : blank.rxFifo.length < 256 ∧
    (sending.fsm = .send ∧ sending.txIdx = 0 ∧ sending.txLen ≠ 1 ∧
      sending.txbuf[(0 : Fin 16)] = BitVec.ofNat 8 (0x80 + (1 : DevAddr).toNat)) ∧
    sending.txbuf[(0 : Fin 16)] ≠ BitVec.ofNat 8 (0x80 + (2 : DevAddr).toNat) ∧
    (lastByte.fsm = .send ∧ lastByte.txIdx.toNat = (4 : Fin 16).val ∧ lastByte.txLen.toNat = (4 : Fin 16).val + 1 ∧
      lastByte.txbuf[(4 : Fin 16)] = 0xFF ∧ ({ lastByte with latSettle := 1 } : State).latSettle ≠ 0) ∧
    (waiting.fsm ≠ .send ∧ sending.txIdx + 1 ≠ sending.txLen) ∧
    (sending.txIdx.toNat = (0 : Fin 16).val ∧ sending.txbuf[(0 : Fin 16)] ≠ 0xFF) := by decide
/-- An exact fit, and a frame whose last byte is dropped. -/
theorem witness_ReplyFramesArriveByteByByte : replyFrame (.rspOther 0xB0 [0x42]) = some (0xB0, [0x42]) ∧
    ({ blank with rxFifo := List.replicate 253 0 } : State).rxFifo.length + (([0x42] : List Byte).length + 2) ≤ 256 ∧
    256 < ({ blank with rxFifo := List.replicate 254 0 } : State).rxFifo.length + (([0x42] : List Byte).length + 2) := by
  simp only [List.length_replicate]; decide
theorem witness_NibSplitReturnsTheNibbles : (8 : BitVec 4).toNat ≤ 8 ∧ 7 < (8 : BitVec 4).toNat ∧
    8 < (9 : BitVec 4).toNat := by decide
theorem witness_NibCombineReturnsThePlaceValue : (List.replicate 8 (0xFF : Byte)).length ≤ 8 ∧
    8 < (List.replicate 9 (0 : Byte)).length ∧ blank.params.digitMode = .lowNibble := by decide
theorem witness_SplitThenCombineGivesTheValueBack : (4 : BitVec 4).toNat ≤ 8 ∧
    (0xBEEF : Word).toNat < 16 ^ (4 : BitVec 4).toNat := by decide
/-- A field that ends at the payload's end, and one byte past it. -/
theorem witness_NibFieldReturnsTheFieldValue :
    (([0x50, 0x00, 0x00, 0x01, 0x0E] : List Byte) = [0x50, 0x00, 0x00] ++ [0x01, 0x0E] ++ [] ∧
      ([0x50, 0x00, 0x00] : List Byte).length = (3 : BitVec 4).toNat ∧
      ([0x01, 0x0E] : List Byte).length = (2 : BitVec 4).toNat ∧ (2 : BitVec 4).toNat ≤ 8) ∧
    ([0x50, 0x00, 0x00, 0x01, 0x0E] : List Byte).length < (4 : BitVec 4).toNat + (2 : BitVec 4).toNat ∧
    8 < (9 : BitVec 4).toNat := by decide
theorem witness_DecNumregReadsBytesThreeAndFour :
    ([0x50, 0x00, 0x00, 0x01, 0x0E] : List Byte) = 0x50 :: 0x00 :: 0x00 :: 0x01 :: 0x0E :: [] ∧
    ([0x50, 0x00, 0x00, 0x01] : List Byte).length < 5 ∧
    ([0x51, 0x00, 0x00, 0x01, 0x0E] : List Byte).head? ≠ some 0x50 := by decide
theorem witness_DecPantiltReadsThePositions : blank.panNib.toNat ≤ 8 ∧ blank.tiltNib.toNat ≤ 8 ∧
    (([0x50, 1, 2, 3, 4, 0, 0, 0, 1] : List Byte) = 0x50 :: ([1, 2, 3, 4] ++ [0, 0, 0, 1] ++ []) ∧
      ([1, 2, 3, 4] : List Byte).length = blank.panNib.toNat ∧ ([0, 0, 0, 1] : List Byte).length = blank.tiltNib.toNat) ∧
    ([0x50, 1, 2, 3, 4, 0, 0, 0] : List Byte).length < 1 + blank.panNib.toNat + blank.tiltNib.toNat := by decide
theorem witness_DecVersionReadsItsFields :
    ([0x50, 0, 2, 0, 4, 1, 2, 2] : List Byte) = 0x50 :: 0 :: 2 :: 0 :: 4 :: 1 :: 2 :: 2 :: [] ∧
    ([0x50, 0, 2, 0, 4, 1, 2] : List Byte).length < 8 := by decide
theorem witness_FrameEncPrependsTheAddress : (List.replicate 15 (0 : Byte)).length ≤ 15 := by decide
theorem witness_AddrDecReadsTheSender : 0x80 ≤ (0x80 : Byte).toNat ∧ (0x7F : Byte).toNat < 0x80 ∧ (7 : DevAddr) ≠ 0 := by
  decide
/-- Five frames in fifteen bytes (95_test_vectors.md, SPLIT). -/
theorem witness_SplitKeepsItsFragments :
    (List.replicate 5 ([0x90, 0x41] : List Byte) ++ [[]]) ≠ [] ∧
    (∀ f ∈ List.replicate 5 ([0x90, 0x41] : List Byte) ++ [[]], terminator ∉ f) ∧
    (([terminator] : List Byte).intercalate (List.replicate 5 ([0x90, 0x41] : List Byte) ++ [[]])).length ≤ 15 := by
  decide
theorem witness_ClassifyFollowsThePayloadShape : HasKind [0x50] .inquiryReply ∧ HasKind [0x60, 0x02] .syntaxError ∧
    (0x50 :: List.replicate 14 (0 : Byte)).length ≤ 15 := ⟨⟨[], rfl⟩, rfl, by decide⟩
theorem witness_ReassemblyAgreesOnWholeChunks :
    ([0x90, 0x41, 0xFF] : List Byte).getLast? = some terminator ∧ ([] : List Byte) = [] := by decide
/-- An inquiry to device 1 in a block with REASSEMBLY = ON, which carries `90 50` from an earlier poll. -/
def carrying : State := { waiting with params := onFull, frag := [0x90, 0x50] }
theorem carrying_poll_due : carrying.pollDue := by unfold State.pollDue; decide
/-- A poll event, and for each clause what the FIFO and the buffer hold: the rest of a frame, a tail that just fits,
one byte more, and a fragment being dropped, without and with its end. -/
theorem witness_ReassemblyIgnoresChunkBoundaries :
    (∃ b, PollEvent .tick carrying b) ∧ carrying.params.reassembly = .on ∧
    (carrying.fragDiscard = false ∧ carrying.frag ++ [0x02] = 0x90 :: [0x50, 0x02] ∧
      ({ carrying with rxFifo := [0x02, 0xFF] } : State).rxFifo = [0x02] ++ terminator :: [] ∧
      WholeFrame 0x90 [0x50, 0x02] ∧ FromDevice carrying.latAddr 0x90 ∧ HasKind [0x50, 0x02] .inquiryReply ∧
      EndsWait carrying.latKind .inquiryReply) ∧
    (terminator ∉ List.replicate 13 (0 : Byte) ∧ carrying.frag.length + (List.replicate 13 (0 : Byte)).length ≤ 15) ∧
    (terminator ∉ List.replicate 14 (0 : Byte) ∧ carrying.frag.length ≤ 15 ∧
      15 < carrying.frag.length + (List.replicate 14 (0 : Byte)).length) ∧
    (({ carrying with frag := [], fragDiscard := true } : State).fragDiscard = true ∧ terminator ∉ ([0x02] : List Byte)) :=
  ⟨⟨_, .inl ⟨rfl, carrying_poll_due, rfl⟩⟩, rfl, ⟨rfl, rfl, rfl, reply_frame⟩, by decide, by decide, by decide⟩
/-- A request, an event and a codec operation each meet the hypotheses of the whole-machine rules. -/
theorem witness_LatchesChangeOnlyAtAcceptance : ∃ t, exec (.reqInq [0x09, 0x04, 0x00, 0xFF]) blank = .next t ∧
    Instr.reqInq [0x09, 0x04, 0x00, 0xFF] ≠ .reset := ⟨_, rfl, by decide⟩
theorem witness_EachDoneEntryDeliversOneRecord : ∃ t, exec (.reqK3 []) blank = .next t ∧ t.fsm = .done :=
  ⟨_, rfl, by decide⟩
theorem witness_FsmMovesOnlyAsTabled : ∃ t, exec .take finished = .next t ∧ t.fsm ≠ finished.fsm :=
  ⟨_, rfl, by decide⟩
/-- A byte that arrives during WAIT, and the last byte of a CMD. -/
theorem witness_UnpolledBytesStayInTheFifo :
    (∃ t, exec (.rx 0x90) waiting = .next t ∧ Instr.rx 0x90 ≠ .reset ∧ ¬ MayPoll (.rx 0x90) waiting) ∧
    ∃ t, exec .txacc { lastByte with latKind := .cmd } = .next t ∧ Instr.txacc ≠ .reset ∧ t.fsm = .done ∧
      ¬ MayPoll .txacc { lastByte with latKind := .cmd } :=
  ⟨⟨_, rfl, by decide, by unfold MayPoll; decide⟩, _, rfl, by decide, by decide, by unfold MayPoll; decide⟩
theorem witness_OnlyConfigWritesChangeTheConfiguration : ∃ t, exec (.reserved80 0) { waiting with rxOvf := true } =
    .next t ∧ Instr.reserved80 0 ≠ .reset ∧ (∀ idx v, Instr.reserved80 0 ≠ .cfgw idx v) :=
  ⟨_, rfl, by decide, by intro _ _ h; cases h⟩

end Sys2Proof.Tests
end

/-! # Proofs: which event a step runs, and what RESET leaves outside the block (00_scope.md R7, R9, R10) -/

section
namespace Sys2Proof.Machine

/-! ## The next event -/

section
variable {s : State}

/-- In IDLE the oldest held request completes (R101, R281). -/
theorem heldRequest_of_idle {r : Request} {rest : List Request} (hi : s.fsm = .idle) (hr : s.held = r :: rest) :
    s.heldRequest = some (r, { s with held := rest }) := by
  simp only [State.heldRequest, hi, hr]

/-- No held request completes outside IDLE, nor where none is held. -/
theorem heldRequest_of_not_ready (h : s.fsm ≠ .idle ∨ s.held = []) : s.heldRequest = none := by
  unfold State.heldRequest
  split
  case h_1 hi hr =>
    obtain hne | hnil := h
    · exact absurd hi hne
    · simp [hr] at hnil
  case h_2 => rfl

theorem nextInput_of_cons {w : Input} {rest : List Input} (hw : s.inputs = w :: rest) :
    s.nextInput = some (w, { s with inputs := rest }) := by
  simp only [State.nextInput, hw]

theorem nextInput_of_nil (hw : s.inputs = []) : s.nextInput = none := by
  simp only [State.nextInput, hw]

theorem step_of_heldRequest {r : Request} {t : State} (hr : s.heldRequest = some (r, t)) :
    step s = exec (requestInstr r) t := by
  simp only [step, State.fetch, hr]

theorem step_of_nextInput {w : Input} {t : State} (hr : s.heldRequest = none) (hw : s.nextInput = some (w, t)) :
    step s = exec (decode w) t := by
  simp only [step, State.fetch, hr, hw]

/-- With no event to happen the block stays as it is (R10). -/
theorem step_of_noEvent (hr : s.heldRequest = none) (hw : s.nextInput = none) : step s = .next s := by
  simp only [step, State.fetch, hr, hw]

end

/-! ## The placed word -/

/-- A number that decodes is an operation of the op port, and its instruction is that operation decoded. -/
theorem unpackHostOp_of_decodeTableWord {nbits w : Nat} {i : Instr} (h : decodeTableWord nbits w = some i) :
    ∃ o, unpackHostOp (tableNumber nbits w) = .ok o ∧ decode (.hostOp o) = i := by
  unfold decodeTableWord at h
  split at h
  case h_1 o ho => exact ⟨o, ho, Option.some.inj h⟩
  case h_2 => cases h

theorem withFetchWord_of_unpack {nbits w : Nat} {o : HostOp} (s : State)
    (h : unpackHostOp (tableNumber nbits w) = .ok o) :
    s.withFetchWord nbits w = { s with inputs := .hostOp o :: s.inputs, held := [] } := by
  simp only [State.withFetchWord, State.placeWord, h]

/-! ## RESET -/

theorem samePorts_doReset (s : State) : SamePorts s s.doReset := ⟨rfl, rfl, rfl⟩

theorem exec_reset (s : State) : exec .reset s = .next s.doReset := rfl

/-! ## The obligations -/

/-- Settles O4: a held request that is ready comes first, then the oldest input, then the idle step. -/
theorem stepRunsTheDecodedEvent : Obligations.StepRunsTheDecodedEvent := by
  unfold Obligations.StepRunsTheDecodedEvent
  intro s
  refine ⟨?held, ?input, ?nothing⟩
  case held =>
    intro r rest hi hr
    exact step_of_heldRequest (heldRequest_of_idle hi hr)
  case input =>
    intro w rest hn hw
    exact step_of_nextInput (heldRequest_of_not_ready hn) (nextInput_of_cons hw)
  case nothing =>
    intro hn hw
    exact step_of_noEvent (heldRequest_of_not_ready hn) (nextInput_of_nil hw)

/-- Settles O5: the word stands first among the inputs with nothing held, so the step takes it from there. -/
theorem placedWordRunsNext : Obligations.PlacedWordRunsNext := by
  unfold Obligations.PlacedWordRunsNext
  intro s nbits w i h
  obtain ⟨o, ho, rfl⟩ := unpackHostOp_of_decodeTableWord h
  rw [withFetchWord_of_unpack s ho]
  exact step_of_nextInput (heldRequest_of_not_ready (.inr rfl)) (nextInput_of_cons rfl)

/-- Settles O8: RESET answers `doReset`, which copies the build parameters and the two lists. -/
theorem resetLeavesWhatStandsOutsideTheBlock : Obligations.ResetLeavesWhatStandsOutsideTheBlock := by
  unfold Obligations.ResetLeavesWhatStandsOutsideTheBlock
  intro s
  exact ⟨s.doReset, exec_reset s, samePorts_doReset s⟩

end Sys2Proof.Machine
end

/-! # Proofs: what one event can do (the shared operations of Machine/Ops.lean) -/

section
namespace Sys2Proof.Machine

/-- What an instruction can do to a state: leave it, or run one of the shared operations. -/
inductive Effect (i : Instr) (s : State) : State → Prop
  | unchanged : Effect i s s
  | give (r : Result) : Effect i s (s.give r)
  | request (k : ReqKind) (d : List Byte) (hi : isRequest i = true) : Effect i s (s.request k d)
  | cfgWrite (idx : BitVec 3) (v : Word) (hi : i = .cfgw idx v) : Effect i s (s.cfgWrite idx v)
  | take (hi : i = .take) : Effect i s s.takeResponse
  | reserved (hi : isReserved i = true) : Effect i s s.setBadOp
  | receive (bs : List Byte) : Effect i s (s.pushBytes bs)
  | transmit (hi : isTransmit i = true) : Effect i s s.txAccept
  | tick (hi : i = .tick) : Effect i s s.tick
  | reset (hi : i = .reset) : Effect i s s.doReset

section
variable {i : Instr} {s t : State}

/-- A catalog name with an admitted operand is a REQ; with any other it answers no next state (R236). -/
theorem Effect.of_requestIf {admitted : Bool} {k : ReqKind} {d : List Byte} (hi : isRequest i = true)
    (h : requestIf admitted k d s = .next t) : Effect i s t := by
  unfold requestIf at h
  split at h
  · cases h; exact .request k d hi
  · cases h

/-- A wire byte that leaves is a TX_ACCEPT where SEND offers that byte, and nothing elsewhere (log 8). -/
theorem Effect.of_offer {offered : Bool} (hi : isTransmit i = true)
    (h : (.next (if offered then s.txAccept else s) : Host.Outcome State Fault Refusal) = .next t) : Effect i s t := by
  cases h
  cases offered
  · exact .unchanged
  · exact .transmit hi

/-- Every instruction that answers a next state has one of the ten effects. -/
theorem effect_of_exec (h : exec i s = .next t) : Effect i s t := by
  cases i with
  | cmdZoomIn x | cmdMove a b c d | cmdPresetRecall x | cmdPresetStore x => exact .of_requestIf rfl h
  | reqCmd d | reqCmdWait d | reqInq d | reqK3 d | cmdPowerOn | cmdPowerOff | cmdZoomStop | cmdMoveStop | cmdHome
  | cmdPtReset | inqPower | inqPantiltPos | inqVersion | inqRedGain => cases h; exact .request _ _ rfl
  | cfgw idx v => cases h; exact .cfgWrite idx v rfl
  | take => cases h; exact .take rfl
  | reserved00 | reserved14 | reserved18 | reserved28 | reserved38 | reserved41 | reserved42 | reserved44 | reserved48
  | reserved5B | reserved5C | reserved60 | reserved80 => cases h; exact .reserved rfl
  | txacc => cases h; exact .transmit rfl
  | hdrOut a => exact .of_offer rfl h
  | term dir =>
    cases dir
    case inbound => cases h; exact .receive [_]
    case outbound => exact .of_offer rfl h
  | rx b | hdrIn a x => cases h; exact .receive [_]
  | rspAck | rspCompletion | rspInquiryReply | rspSyntaxError | rspNotExecutable | rspOther => cases h; exact .receive _
  | tick => cases h; exact .tick rfl
  | reset => cases h; exact .reset rfl
  | _ => cases h; exact .give _

/-- The event of a step runs in the state that differs only in what waits outside the ports. -/
theorem event_of_step (h : step s = .next t) :
    t = s ∨ ∃ i ins hs, exec i { s with inputs := ins, held := hs } = .next t := by
  unfold step at h
  split at h
  case h_2 => exact .inl (Host.Outcome.next.inj h).symm
  case h_1 i u hf =>
    suffices ∃ ins hs, u = { s with inputs := ins, held := hs } by
      obtain ⟨ins, hs, rfl⟩ := this
      exact .inr ⟨i, ins, hs, h⟩
    unfold State.fetch at hf
    split at hf
    case h_1 r u' hr =>
      cases hf
      unfold State.heldRequest at hr
      split at hr
      · cases hr; exact ⟨s.inputs, _, rfl⟩
      · cases hr
    case h_2 =>
      unfold State.nextInput at hf
      cases hin : s.inputs with
      | nil => simp [hin] at hf
      | cons w rest =>
        simp only [hin, Option.some.injEq, Prod.mk.injEq] at hf
        exact ⟨rest, s.held, hf.2.symm⟩

end

end Sys2Proof.Machine
end

/-! # Proofs: what the events leave alone (10_state.md R34, R39, R50; 60_exceptions.md R350) -/

section
namespace Sys2Proof.Machine

/-! ## Records -/

/-- Outputs that are no responses add no record. -/
theorem records_of_noResponse {s t : State} {os : List Output} (h : ∀ o ∈ os, ∀ r, o ≠ .response r)
    (ht : t.outputs = s.outputs ++ os) : t.records = s.records := by
  have hos : ({ s with outputs := os } : State).records = [] := by
    refine List.filterMap_eq_nil_iff.2 fun o ho => ?_
    cases o with
    | response r => exact absurd rfl (h _ ho r)
    | _ => rfl
  unfold State.records at hos ⊢
  rw [ht, List.filterMap_append, hos, List.append_nil]

theorem noResponse_of_onlyDiags {ds : List Output} (h : onlyDiags ds) : ∀ o ∈ ds, ∀ r, o ≠ .response r := by
  intro o ho r
  obtain ⟨a, n, p, rfl⟩ := h o ho
  nofun

@[simp] theorem State.finish_records (s : State) (st : Status) (k : Kind) (a : DevAddr) (p : List Byte) (r : Reason) :
    (s.finish st k a p r).records = s.records ++ [mkRsp st k a p r] := by
  simp [State.records]

/-! ## Quiet changes -/

/-- A change that accepts no request, writes no register and enters no DONE: the build parameters, the latches, the
configuration, the record and the records put out stay, and no sticky flag is cleared. -/
structure Quiet (s t : State) : Prop where
  params : t.params = s.params
  latches : SameLatches s t
  config : SameConfig s t
  rxOvf : s.rxOvf = true → t.rxOvf = true
  frameOvf : s.frameOvf = true → t.frameOvf = true
  badOp : s.badOp = true → t.badOp = true
  rsp : t.rsp = s.rsp
  records : t.records = s.records
  done : t.fsm = .done → s.fsm = .done

section
variable {s b : State}

theorem Quiet.refl (s : State) : Quiet s s where
  params := rfl
  latches := ⟨rfl, rfl, rfl, rfl, rfl⟩
  config := ⟨rfl, rfl, rfl, rfl, rfl, rfl, rfl⟩
  rxOvf := id
  frameOvf := id
  badOp := id
  rsp := rfl
  records := rfl
  done := id

/-- FRAME_OVF is sticky under the deframer (R345). -/
theorem deframe_frameOvf (h : s.frameOvf = true) : s.deframe.2.frameOvf = true := by
  unfold State.deframe
  cases s.params.reassembly <;> simp [h]

/-- What a poll leaves behind before its gate acts is a quiet change. -/
theorem Quiet.drain (q : Quiet s b) {ds : List Output} (hds : onlyDiags ds) :
    Quiet s { b.deframe.2 with outputs := b.outputs ++ ds } := by
  have hovf := fun h => deframe_frameOvf (q.frameOvf h)
  have hrec : ({ b.deframe.2 with outputs := b.outputs ++ ds } : State).records = s.records :=
    (records_of_noResponse (noResponse_of_onlyDiags hds) rfl).trans q.records
  rw [deframe_state b] at hrec ⊢
  exact { q with frameOvf := hovf, records := hrec }

/-! ## The events of the transport and of the time base -/

/-- A quiet change, or one that also enters DONE from another state. -/
def Advances (s t : State) : Prop :=
  Quiet s t ∨ s.fsm ≠ .done ∧ ∃ u st k a p r, Quiet s u ∧ t = u.finish st k a p r

theorem Advances.pollAndGate (q : Quiet s b) (hs : s.fsm ≠ .done) : Advances s b.pollAndGate := by
  obtain ⟨ds, hds, ⟨h, -⟩ | ⟨h, -⟩ | ⟨f, -, -, -, h⟩⟩ := pollAndGate_cases b
  · exact .inl (h ▸ q.drain hds)
  · exact .inr ⟨hs, _, _, _, _, _, _, q.drain hds, h⟩
  · exact .inr ⟨hs, _, _, _, _, _, _, q.drain hds, h⟩

theorem Advances.afterSettle (q : Quiet s b) (hs : s.fsm ≠ .done) : Advances s b.afterSettle := by
  by_cases hk : b.latKind = .cmd
  · exact .inr ⟨hs, b, _, _, _, _, _, q, afterSettle_of_cmd hk⟩
  · rw [afterSettle_of_waiting hk]
    exact .pollAndGate { q with done := nofun } hs

theorem Advances.endSend (q : Quiet s b) (hs : s.fsm ≠ .done) : Advances s b.endSend := by
  by_cases hl : b.latSettle = 0
  · rw [endSend_of_zero hl]
    exact .afterSettle q hs
  · rw [endSend_of_delay hl]
    exact .inl { q with done := nofun }

theorem Advances.txAccept (s : State) : Advances s s.txAccept := by
  by_cases h : s.fsm = .send
  case neg => rw [txAccept_of_ne_send h]; exact .inl (.refl s)
  case pos =>
    have q : Quiet s { s with txIdx := s.txIdx + 1, outputs := s.outputs ++ [.txByte s.txData] } :=
      { Quiet.refl s with records := records_of_noResponse (by simp) rfl }
    rw [txAccept_of_send h]
    split
    · exact .endSend q (by simp [h])
    · exact .inl q

theorem Advances.tickSettle (h : s.fsm = .settle) : Advances s s.tickSettle := by
  have q : Quiet s { s with settleCnt := s.settleCnt + 1 } := { Quiet.refl s with }
  unfold State.tickSettle
  dsimp only
  split
  · exact .afterSettle q (by simp [h])
  · exact .inl q

theorem Advances.tickWait (h : s.fsm = .wait) : Advances s s.tickWait := by
  unfold State.tickWait
  dsimp only
  split
  · exact .pollAndGate { Quiet.refl s with } (by simp [h])
  · exact .inl { Quiet.refl s with }

theorem Advances.tick (s : State) : Advances s s.tick := by
  cases h : s.fsm with
  | settle => rw [tick_of_settle h]; exact .tickSettle h
  | wait => rw [tick_of_wait h]; exact .tickWait h
  | idle | send | done => rw [tick_of_quiet (by simp [h])]; exact .inl (.refl s)

/-! ## Every event -/

theorem Quiet.pushBytes (s : State) (bs : List Byte) : Quiet s (s.pushBytes bs) := by
  obtain ⟨kept, o, h, -⟩ := pushBytes_cases s bs
  rw [h]
  exact { Quiet.refl s with rxOvf := fun hs => by simp [hs] }

theorem Quiet.takeResponse (s : State) : Quiet s s.takeResponse := by
  by_cases h : s.fsm = .done
  · rw [takeResponse_of_done h]; exact { Quiet.refl s with done := nofun }
  · rw [takeResponse_of_ne h]; exact .refl s

/-- What a CFG_WRITE leaves alone, whatever its index (R307). -/
theorem cfgWrite_frame (s : State) (idx : BitVec 3) (v : Word) :
    (s.cfgWrite idx v).params = s.params ∧ SameLatches s (s.cfgWrite idx v) ∧ (s.cfgWrite idx v).rsp = s.rsp ∧
      (s.cfgWrite idx v).records = s.records ∧ (s.cfgWrite idx v).fsm = s.fsm := by
  unfold State.cfgWrite
  split <;> exact ⟨rfl, ⟨rfl, rfl, rfl, rfl, rfl⟩, rfl, rfl, rfl⟩

/-- The frame of every event: it advances the transaction at most, or it is an acceptance, a CFG_WRITE or RESET. -/
theorem advances_or_writes {i : Instr} {t : State} (h : exec i s = .next t) :
    Advances s t ∨ (isRequest i = true ∧ s.fsm = .idle ∧ ∃ k d, t = s.accept k d) ∨
      (∃ idx v, i = .cfgw idx v ∧ t = s.cfgWrite idx v) ∨ (i = .reset ∧ t = s.doReset) := by
  cases effect_of_exec h with
  | unchanged => exact .inl (.inl (.refl s))
  | give r => exact .inl (.inl { Quiet.refl s with records := records_of_noResponse (os := [.result r]) (by simp) rfl })
  | request k d hi =>
    obtain ⟨hs, -, hr⟩ | ⟨hs, -, hr⟩ | ⟨hs, hr⟩ := request_cases s k d
    · exact .inr (.inl ⟨hi, hs, k, d, hr⟩)
    · exact .inl (.inr ⟨by simp [hs], s, _, _, _, _, _, .refl s, hr⟩)
    · rw [hr]; exact .inl (.inl { Quiet.refl s with })
  | cfgWrite idx v hi => exact .inr (.inr (.inl ⟨idx, v, hi, rfl⟩))
  | take => exact .inl (.inl (.takeResponse s))
  | reserved => exact .inl (.inl { Quiet.refl s with badOp := fun _ => rfl })
  | receive bs => exact .inl (.inl (.pushBytes s bs))
  | transmit => exact .inl (.txAccept s)
  | tick => exact .inl (.tick s)
  | reset hi => exact .inr (.inr (.inr ⟨hi, rfl⟩))

end

/-! ## The obligations -/

/-- Settles O56: entry to DONE writes no latch, and acceptance copies the configuration. -/
theorem latchesChangeOnlyAtAcceptance : Obligations.LatchesChangeOnlyAtAcceptance := by
  unfold Obligations.LatchesChangeOnlyAtAcceptance
  intro i s t h hi
  obtain (q | ⟨-, u, _, _, _, _, _, q, rfl⟩) | ⟨hreq, hs, k, d, rfl⟩ | ⟨idx, v, -, rfl⟩ | ⟨rfl, -⟩ :=
    advances_or_writes h
  · exact .inl q.latches
  · exact .inl q.latches
  · exact .inr ⟨hreq, hs, rfl, rfl, rfl, rfl, rfl⟩
  · exact .inl (cfgWrite_frame s idx v).2.1
  · exact absurd rfl hi

/-- Settles O57: `finish` is the one operation that enters DONE, writes the record and puts it out. -/
theorem eachDoneEntryDeliversOneRecord : Obligations.EachDoneEntryDeliversOneRecord := by
  unfold Obligations.EachDoneEntryDeliversOneRecord
  intro i s t h
  obtain (q | ⟨hs, u, st, k, a, p, r, q, rfl⟩) | ⟨-, -, k, d, rfl⟩ | ⟨idx, v, -, rfl⟩ | ⟨rfl, rfl⟩ :=
    advances_or_writes h
  · have hno : ¬ (s.fsm ≠ .done ∧ t.fsm = .done) := fun ⟨hs, ht⟩ => hs (q.done ht)
    exact ⟨by rw [if_neg hno, List.append_nil, q.records], fun _ _ => q.rsp⟩
  · have hyes : s.fsm ≠ .done ∧ (u.finish st k a p r).fsm = .done := ⟨hs, rfl⟩
    exact ⟨by rw [if_pos hyes, State.finish_records, q.records]; rfl, fun _ hno => absurd hyes hno⟩
  · exact ⟨by simp [State.records], fun _ _ => rfl⟩
  · obtain ⟨-, -, hrsp, hrec, hfsm⟩ := cfgWrite_frame s idx v
    exact ⟨by rw [hrec, hfsm]; simp, fun _ _ => hrsp⟩
  · exact ⟨by simp [State.records, State.doReset, State.resetOf], fun hne => absurd rfl hne⟩

/-- Settles O60: neither acceptance nor entry to DONE writes the configuration or clears a flag. -/
theorem onlyConfigWritesChangeTheConfiguration : Obligations.OnlyConfigWritesChangeTheConfiguration := by
  unfold Obligations.OnlyConfigWritesChangeTheConfiguration
  intro i s t h
  obtain (q | ⟨-, u, _, _, _, _, _, q, rfl⟩) | ⟨-, -, k, d, rfl⟩ | ⟨idx, v, rfl, rfl⟩ | ⟨rfl, rfl⟩ :=
    advances_or_writes h
  · exact ⟨q.params, fun _ _ => ⟨q.config, q.rxOvf, q.frameOvf, q.badOp⟩⟩
  · exact ⟨q.params, fun _ _ => ⟨q.config, q.rxOvf, q.frameOvf, q.badOp⟩⟩
  · exact ⟨rfl, fun _ _ => ⟨(Quiet.refl s).config, id, id, id⟩⟩
  · exact ⟨(cfgWrite_frame s idx v).1, fun _ hne => absurd rfl (hne idx v)⟩
  · exact ⟨rfl, fun hne => absurd rfl hne⟩

end Sys2Proof.Machine
end

/-! # Proofs: the fields of the configuration words (10_state.md R41, R47, R48, R49) -/

section
namespace Sys2Proof.Machine

open BitVec (extractLsb'_append_eq_of_le extractLsb'_append_eq_right extractLsb'_eq_self)

section
variable (s : State)

/-- CFG_READ returns the register and changes nothing else (R308). -/
theorem returns_cfgRead (idx : BitVec 3) : Returns s (.cfgr idx) (.rdata (s.cfgRead idx)) := rfl

theorem exec_cfgw (idx : BitVec 3) (v : Word) : exec (.cfgw idx v) s = .next (s.cfgWrite idx v) := rfl

/-- A one-bit field is a bit of the word. -/
theorem getLsbD_of_bitField {w : Word} {j : Nat} {b : Bool} (h : w.extractLsb' j 1 = bit b) : w.getLsbD j = b := by
  rw [BitVec.getLsbD_eq_extractLsb', h]
  cases b <;> rfl

/-! Each field is read by dropping the fields below it; what is left starts with it, and the topmost is all that is
left. -/

/-- The ten fields of STATUS fill its 32 bits (R48). -/
theorem statusWord_fields :
    s.statusWord.extractLsb' 0 3 = s.fsm.code ∧ s.statusWord.extractLsb' 3 1 = bit s.rxOvf ∧
      s.statusWord.extractLsb' 4 1 = bit s.frameOvf ∧ s.statusWord.extractLsb' 5 1 = bit s.badOp ∧
      s.statusWord.extractLsb' 6 2 = 0 ∧ s.statusWord.extractLsb' 8 1 = bit (s.params.reassembly == .on) ∧
      s.statusWord.extractLsb' 9 1 = bit (s.params.digitMode == .fullByte) ∧ s.statusWord.extractLsb' 10 6 = 0 ∧
      s.statusWord.extractLsb' 16 9 = BitVec.ofNat 9 s.rxFifo.length ∧ s.statusWord.extractLsb' 25 7 = 0 := by
  unfold State.statusWord
  refine ⟨?_, ?_, ?_, ?_, ?_, ?_, ?_, ?_, ?_, ?top⟩
  case top =>
    repeat rw [extractLsb'_append_eq_of_le (by decide)]
    exact extractLsb'_eq_self
  all_goals
    repeat rw [extractLsb'_append_eq_of_le (by decide)]
    exact extractLsb'_append_eq_right

/-- The seven fields of RSP_INFO fill its 32 bits (R49). -/
theorem rspInfoWord_fields :
    s.rspInfoWord.extractLsb' 0 2 = s.rsp.status.code ∧ s.rspInfoWord.extractLsb' 2 3 = s.rsp.kind.code ∧
      s.rspInfoWord.extractLsb' 5 3 = s.rsp.addr ∧ s.rspInfoWord.extractLsb' 8 4 = s.rsp.len ∧
      s.rspInfoWord.extractLsb' 12 4 = s.rsp.reason.code ∧ s.rspInfoWord.extractLsb' 16 1 = bit (s.fsm == .done) ∧
      s.rspInfoWord.extractLsb' 17 15 = 0 := by
  unfold State.rspInfoWord
  refine ⟨?_, ?_, ?_, ?_, ?_, ?_, ?top⟩
  case top =>
    repeat rw [extractLsb'_append_eq_of_le (by decide)]
    exact extractLsb'_eq_self
  all_goals
    repeat rw [extractLsb'_append_eq_of_le (by decide)]
    exact extractLsb'_append_eq_right

/-- The three fields of CTRL fill its 32 bits (R41). -/
theorem ctrlWord_fields :
    s.ctrlWord.extractLsb' 0 3 = s.targetAddr ∧ s.ctrlWord.extractLsb' 3 1 = bit s.diagEn ∧
      s.ctrlWord.extractLsb' 4 28 = 0 := by
  unfold State.ctrlWord
  refine ⟨extractLsb'_append_eq_right, ?_, ?_⟩
  · rw [extractLsb'_append_eq_of_le (by decide)]
    exact extractLsb'_append_eq_right
  · rw [extractLsb'_append_eq_of_le (by decide), extractLsb'_append_eq_of_le (by decide)]
    exact extractLsb'_eq_self

/-- The three fields of GEOM fill its 32 bits (R47). -/
theorem geomWord_fields :
    s.geomWord.extractLsb' 0 4 = s.panNib ∧ s.geomWord.extractLsb' 4 4 = s.tiltNib ∧
      s.geomWord.extractLsb' 8 24 = 0 := by
  unfold State.geomWord
  refine ⟨extractLsb'_append_eq_right, ?_, ?_⟩
  · rw [extractLsb'_append_eq_of_le (by decide)]
    exact extractLsb'_append_eq_right
  · rw [extractLsb'_append_eq_of_le (by decide), extractLsb'_append_eq_of_le (by decide)]
    exact extractLsb'_eq_self

/-- The FIFO's length fits its nine bits up to RX_DEPTH (R37, R48). -/
theorem toNat_rxLenField (h : s.rxFifo.length ≤ 256) : (BitVec.ofNat 9 s.rxFifo.length).toNat = s.rxFifo.length := by
  rw [BitVec.toNat_ofNat]
  omega

/-- Write 1 to clear, flag by flag (R48). -/
theorem clearSticky_eq (v : Word) : s.clearSticky v = { s with
    rxOvf := if v.getLsbD 3 then false else s.rxOvf
    frameOvf := if v.getLsbD 4 then false else s.frameOvf
    badOp := if v.getLsbD 5 then false else s.badOp } := by
  have hbit : ∀ b f : Bool, (f && !b) = if b then false else f := by decide
  simp only [State.clearSticky, hbit]

end

/-! ## The obligations -/

/-- Settles O12: the fields of the word of CFG_READ 5, and the write-1-to-clear. -/
theorem statusFieldsReadAndClear : Obligations.StatusFieldsReadAndClear := by
  unfold Obligations.StatusFieldsReadAndClear
  refine ⟨fun s => ⟨s.statusWord, returns_cfgRead s 5, ?read⟩, ?clear⟩
  case read =>
    obtain ⟨hfsm, hrx, hframe, hbad, hzero6, hre, hdigit, hzero10, hlen, hzero25⟩ := statusWord_fields s
    refine ⟨hfsm, getLsbD_of_bitField hrx, getLsbD_of_bitField hframe, getLsbD_of_bitField hbad, hzero6, ?_, ?_,
      hzero10, ?_, hzero25⟩
    · rw [getLsbD_of_bitField hre, beq_iff_eq]
    · rw [getLsbD_of_bitField hdigit, beq_iff_eq]
    · rw [hlen]
      exact toNat_rxLenField s
  case clear =>
    intro s v
    rw [exec_cfgw, ← clearSticky_eq]
    rfl

/-- Settles O13: the fields of the word of CFG_READ 6; CFG_WRITE 6 is none of the written indexes. -/
theorem rspInfoMirrorsTheRecord : Obligations.RspInfoMirrorsTheRecord := by
  unfold Obligations.RspInfoMirrorsTheRecord
  refine ⟨fun s => ⟨s.rspInfoWord, returns_cfgRead s 6, ?read⟩, fun s v => exec_cfgw s 6 v⟩
  case read =>
    obtain ⟨hstatus, hkind, haddr, hlen, hreason, hdone, hzero⟩ := rspInfoWord_fields s
    refine ⟨hstatus, hkind, haddr, hlen, hreason, ?_, hzero⟩
    rw [getLsbD_of_bitField hdone, beq_iff_eq]

/-- Settles O14: the words of CTRL and GEOM by fields; the timers are the registers themselves. -/
theorem configReadsReturnTheFields : Obligations.ConfigReadsReturnTheFields := by
  unfold Obligations.ConfigReadsReturnTheFields
  intro s
  obtain ⟨haddr, hdiag, hzero⟩ := ctrlWord_fields s
  exact ⟨⟨s.ctrlWord, returns_cfgRead s 0, haddr, getLsbD_of_bitField hdiag, hzero⟩, returns_cfgRead s 1,
    returns_cfgRead s 2, returns_cfgRead s 3, ⟨s.geomWord, returns_cfgRead s 4, geomWord_fields s⟩,
    returns_cfgRead s 7⟩

end Sys2Proof.Machine
end

/-! # Proofs: every event keeps the invariant (10_state.md R31 to R50; 42_frame_codec.md R192; 45_transaction_engine.md
R283, R290 to R294) -/

section
namespace Sys2Proof.Machine

/-! ## The invariant at rest -/

/-- The state with the sequencer at rest. Its invariant is what `Inv` says apart from the state of the sequencer, so an
operation that moves the sequencer can start from it. -/
def State.parked (s : State) : State := { s with fsm := .idle }

/-- A record with the fields its status calls for (R39, R343). -/
structure Rsp.Ok (r : Rsp) : Prop where
  empty : r.status ≠ .resolved → r.kind = .other ∧ r.len = 0
  full : r.status = .resolved → r.kind ≠ .other ∧ 1 ≤ r.len.toNat ∧ r.len.toNat ≤ 14
  padding : ∀ i : Fin 14, r.len.toNat ≤ i.val → r.payload[i] = 0
  reason : r.reason ≠ .none ↔ r.status = .rejected

section
variable {s : State}

theorem Inv.parked (h : Inv s) : Inv s.parked :=
  { h with latAddr := nofun, sending := nofun, settling := nofun, waiting := nofun, rspDone := nofun }

/-! ## Records -/

/-- The record of an outcome without a frame has its fields right where the reason fits the status (R300, R343). -/
theorem Rsp.Ok.of_noFrame {st : Status} {a : DevAddr} {r : Reason} (hst : st ≠ .resolved)
    (hr : r ≠ .none ↔ st = .rejected) : (mkRsp st .other a [] r).Ok := by
  rw [mkRsp_empty]
  exact ⟨fun _ => ⟨rfl, rfl⟩, fun h => absurd h hst, fun i _ => by simp [emptyRecord], hr⟩

/-- The record of a resolving frame has its fields right where the payload is one a deframer yields (R196, R297). -/
theorem Rsp.Ok.of_frame {k : Kind} {a : DevAddr} {p : List Byte} (hk : k ≠ .other) (h1 : 1 ≤ p.length)
    (h14 : p.length ≤ 14) : (mkRsp .resolved k a p .none).Ok := by
  obtain ⟨hst, hkind, -, hlen, hreason, -, hpad⟩ := mkRsp_resolved (k := k) (a := a) h14
  exact ⟨fun h => absurd hst h, fun _ => ⟨hkind ▸ hk, by omega, by omega⟩, fun i hi => hpad i (by omega),
    by simp [hst, hreason]⟩

theorem ne_other_of_resolves {q : ReqKind} {k : Kind} (h : resolves q k = true) : k ≠ .other := by
  rintro rfl
  cases q <;> cases h

/-- Entry to DONE keeps the invariant, where the record is right and names the transaction's target. -/
theorem Inv.finish {st : Status} {k : Kind} {a : DevAddr} {p : List Byte} {r : Reason} (h : Inv s.parked)
    (hr : (mkRsp st k a p r).Ok) (ha : st ≠ .rejected → a = s.latAddr)
    (hk : st = .resolved → resolves s.latKind k = true) : Inv (s.finish st k a p r) :=
  { h with
    latAddr := nofun, sending := nofun, settling := nofun, waiting := nofun
    rspEmpty := hr.empty, rspFull := hr.full, rspPadding := hr.padding, rspReason := hr.reason
    rspDone := fun _ hst => ⟨ha hst, hk⟩ }

/-! ## Polling -/

/-- The drained block, and the payload lengths of the frames it yields. -/
theorem Inv.deframe (h : Inv s) :
    Inv s.deframe.2 ∧ ∀ f ∈ s.deframe.1, 1 ≤ f.payload.length ∧ f.payload.length ≤ 14 := by
  unfold State.deframe
  cases hre : s.params.reassembly with
  | off =>
    refine ⟨{ h with fifo := by simp }, fun f hf => ?_⟩
    obtain ⟨h1, h14, -⟩ := splitFrames_frame hf
    exact ⟨h1, h14⟩
  | on =>
    obtain ⟨hlen, hclean, hdrop, hframes⟩ := reassembleFrames_ok h.fragLength h.fragClean h.fragDropped s.rxFifo
    refine ⟨{ h with
      fifo := by simp
      fragLength := hlen
      fragClean := hclean
      fragDropped := hdrop
      fragAbsent := fun hoff => absurd (hre.symm.trans hoff) nofun }, fun f hf => ?_⟩
    obtain ⟨h1, h14, -⟩ := hframes f hf
    exact ⟨h1, h14⟩

theorem Inv.outputs (h : Inv s) (os : List Output) : Inv { s with outputs := os } := { h with }

/-- A poll and its gate keep the invariant of a waiting block. -/
theorem Inv.pollAndGate (h : Inv s) : Inv s.pollAndGate := by
  obtain ⟨hd, hframes⟩ := h.deframe
  have hs := deframe_state s
  obtain ⟨hla, hlk⟩ : s.deframe.2.latAddr = s.latAddr ∧ s.deframe.2.latKind = s.latKind := by
    rw [hs]; exact ⟨rfl, rfl⟩
  obtain ⟨ds, -, ⟨hp, -⟩ | ⟨hp, -⟩ | ⟨f, hf, ha, hr, hp⟩⟩ := pollAndGate_cases s
  · exact hp ▸ hd.outputs _
  · rw [hp]
    exact (hd.outputs _).parked.finish (.of_noFrame nofun (by simp)) (fun _ => hla.symm) nofun
  · obtain ⟨h1, h14⟩ := hframes f hf
    have hfrom := ((fromDevice_iff_addressedTo _ _).2 ha).2
    rw [hp]
    exact (hd.outputs _).parked.finish (.of_frame (ne_other_of_resolves hr) h1 h14)
      (fun _ => hfrom.trans hla.symm) (fun _ => by rw [← hr, ← hlk])

/-! ## From SEND to DONE -/

/-- A request that is no CMD waits (R291, R292). -/
theorem Inv.enterWait (h : Inv s.parked) (ha : s.latAddr ≠ 0) (hk : s.latKind ≠ .cmd) : Inv s.enterWait := by
  have hkind : s.latKind = .cmdWait ∨ s.latKind = .inq := by
    have h3 : s.latKind ≠ .reserved3 := h.latKind
    cases hq : s.latKind with
    | cmd => exact absurd hq hk
    | reserved3 => exact absurd hq h3
    | cmdWait => exact .inl rfl
    | inq => exact .inr rfl
  have hw : Inv { s with fsm := .wait, waitCnt := 0, pollCnt := 0 } :=
    { h with
      latAddr := fun _ => ha, sending := nofun, settling := nofun, rspDone := nofun
      waiting := fun _ => ⟨hkind, by simp⟩ }
  exact hw.pollAndGate

theorem Inv.afterSettle (h : Inv s.parked) (ha : s.latAddr ≠ 0) : Inv s.afterSettle := by
  by_cases hk : s.latKind = .cmd
  · rw [afterSettle_of_cmd hk]
    exact h.finish (.of_noFrame nofun (by simp)) (fun _ => rfl) nofun
  · rw [afterSettle_of_waiting hk]
    exact h.enterWait ha hk

theorem Inv.endSend (h : Inv s.parked) (ha : s.latAddr ≠ 0) : Inv s.endSend := by
  by_cases hl : s.latSettle = 0
  · rw [endSend_of_zero hl]
    exact h.afterSettle ha
  · have hpos : 0 < s.latSettle.toNat := Nat.pos_of_ne_zero fun h0 => hl (BitVec.eq_of_toNat_eq h0)
    rw [endSend_of_delay hl]
    exact { h with
      latAddr := fun _ => ha, sending := nofun, waiting := nofun, rspDone := nofun
      settling := fun _ => hpos }

/-- A byte that goes out moves the index up to the length, and the last one ends the frame (R35, R288). -/
theorem Inv.txAccept (h : Inv s) : Inv s.txAccept := by
  by_cases hs : s.fsm = .send
  case neg => rwa [txAccept_of_ne_send hs]
  case pos =>
    have hlt := h.sending hs
    have hidx : (s.txIdx + 1).toNat = s.txIdx.toNat + 1 := by
      have hmax := s.txLen.isLt
      exact BitVec.toNat_add_of_lt (y := 1) (by simp; omega)
    have hle : (s.txIdx + 1).toNat ≤ s.txLen.toNat := by omega
    rw [txAccept_of_send hs]
    split
    case isTrue =>
      exact Inv.endSend { h.parked with txIdx := hle, sending := nofun } (h.latAddr (by simp [hs, Fsm.inFlight]))
    case isFalse hne =>
      have hne' : (s.txIdx + 1).toNat ≠ s.txLen.toNat := fun he => hne (BitVec.eq_of_toNat_eq he)
      exact { h with
        txIdx := hle
        sending := fun _ => by show (s.txIdx + 1).toNat < s.txLen.toNat; omega }

/-! ## Time -/

/-- A TICK of the settle delay counts below the latched delay, and the last one ends it (R290). -/
theorem Inv.tickSettle (h : Inv s) (hs : s.fsm = .settle) : Inv s.tickSettle := by
  unfold State.tickSettle
  dsimp only
  split
  case isTrue => exact Inv.afterSettle { h.parked with settling := nofun } (h.latAddr (by simp [hs, Fsm.inFlight]))
  case isFalse hlt => exact { h with settling := fun _ => by simpa [BitVec.le_def] using hlt }

/-- A TICK of the wait counts below the poll spacing, and the due one polls (R294). -/
theorem Inv.tickWait (h : Inv s) (hs : s.fsm = .wait) : Inv s.tickWait := by
  obtain ⟨hk, hcnt⟩ := h.waiting hs
  rcases Nat.lt_or_eq_of_le (Nat.succ_le_of_lt hcnt) with hbetween | hdue
  · rw [tickWait_between hbetween]
    have hsucc : (s.pollCnt + 1).toNat = s.pollCnt.toNat + 1 := by
      have hmax := s.latPoll.isLt
      exact BitVec.toNat_add_of_lt (y := 1) (by simp; omega)
    exact { h with waiting := fun _ => ⟨hk, by rw [hsucc]; exact hbetween⟩ }
  · rw [tickWait_due hdue]
    exact Inv.pollAndGate { h with waiting := fun _ => ⟨hk, by simp⟩ }

theorem Inv.tick (h : Inv s) : Inv s.tick := by
  cases hs : s.fsm with
  | settle => rw [tick_of_settle hs]; exact h.tickSettle hs
  | wait => rw [tick_of_wait hs]; exact h.tickWait hs
  | idle | send | done => rwa [tick_of_quiet (by simp [hs])]

/-! ## Requests -/

/-- Acceptance puts one frame to the latched address into the buffer (R283). -/
theorem Inv.accept {k : ReqKind} {d : List Byte} (h : Inv s) (hv : validate k d = .none) : Inv (s.accept k d) := by
  obtain ⟨hk, hd⟩ := (validate_eq_none_iff k d).1 hv
  have hlen : 1 ≤ d.length ∧ d.length ≤ 15 := by
    obtain ⟨b, rfl, hb, -⟩ := hd
    simp
    omega
  have htx : (s.accept k d).txLen.toNat = d.length + 1 := by
    simp only [State.accept_txLen, BitVec.toNat_ofNat]
    omega
  have hframe : (s.accept k d).txFrame = encodeFrame s.targetAddr d := by
    unfold State.txFrame
    rw [htx]
    exact overlay_take (f := encodeFrame s.targetAddr d) (by simp [encodeFrame]; omega)
  exact { h with
    latKind := hk
    latAddr := fun _ => h.target
    txLen := .inr (by omega)
    txIdx := Nat.zero_le _
    sending := fun _ => by rw [htx]; exact Nat.succ_pos _
    txFrame := fun _ => ⟨d, hd, hframe⟩
    settling := nofun, waiting := nofun, rspDone := nofun }

theorem Inv.request (h : Inv s) (k : ReqKind) (d : List Byte) : Inv (s.request k d) := by
  obtain ⟨-, hv, hr⟩ | ⟨-, hv, hr⟩ | ⟨-, hr⟩ := request_cases s k d
  · exact hr ▸ h.accept hv
  · rw [hr]
    exact h.parked.finish (.of_noFrame nofun (by simp [hv])) (fun hne => absurd rfl hne) nofun
  · exact hr ▸ { h with }

/-! ## The other operations -/

theorem Inv.takeResponse (h : Inv s) : Inv s.takeResponse := by
  by_cases hs : s.fsm = .done
  · rw [takeResponse_of_done hs]; exact h.parked
  · rwa [takeResponse_of_ne hs]

theorem Inv.pushBytes (h : Inv s) (bs : List Byte) : Inv (s.pushBytes bs) := by
  obtain ⟨kept, o, he, hfifo⟩ := pushBytes_cases s bs
  rw [he]
  exact { h with fifo := hfifo h.fifo }

/-- A legal address stays legal under a write of any field value (R42). -/
theorem warlAddr_ne_zero {old new : DevAddr} (h : old ≠ 0) : warlAddr old new ≠ 0 := by
  unfold warlAddr Config.addrMin
  split
  case isTrue hnew => rintro rfl; exact absurd hnew.1 (by decide)
  case isFalse => exact h

/-- A legal width stays legal under a write of any field value (R47). -/
theorem warlNibble_legal {old new : BitVec 4} (h : 1 ≤ old.toNat ∧ old.toNat ≤ 8) :
    1 ≤ (warlNibble old new).toNat ∧ (warlNibble old new).toNat ≤ 8 := by
  unfold warlNibble
  split <;> assumption

theorem Inv.cfgWrite (h : Inv s) (idx : BitVec 3) (v : Word) : Inv (s.cfgWrite idx v) := by
  unfold State.cfgWrite
  split
  case h_1 => exact { h with target := warlAddr_ne_zero h.target }
  case h_5 => exact { h with panNib := warlNibble_legal h.panNib, tiltNib := warlNibble_legal h.tiltNib }
  all_goals exact { h with }

theorem inv_resetOf {p : Params} (hp : p.wf = true) : Inv (State.resetOf p) where
  params := hp
  target := by simp [State.resetOf]
  panNib := by simp [State.resetOf, Config.panNibReset]
  tiltNib := by simp [State.resetOf, Config.tiltNibReset]
  fifo := Nat.zero_le _
  fragLength := Nat.zero_le _
  fragClean := List.not_mem_nil
  fragDropped := nofun
  fragAbsent := fun _ => ⟨rfl, rfl⟩
  latKind := nofun
  latAddr := nofun
  txLen := .inl rfl
  txIdx := Nat.le_refl _
  sending := nofun
  txFrame := fun h => absurd rfl h
  settling := nofun
  waiting := nofun
  rspEmpty := fun _ => ⟨rfl, rfl⟩
  rspFull := nofun
  rspPadding := fun i _ => by simp [State.resetOf, Rsp.zero, padBytes]
  rspReason := by simp [State.resetOf, Rsp.zero]
  rspDone := nofun

theorem Inv.doReset (h : Inv s) : Inv s.doReset := { inv_resetOf h.params with }

/-! ## Steps -/

theorem Inv.effect {i : Instr} {t : State} (h : Inv s) (he : Effect i s t) : Inv t := by
  cases he with
  | unchanged => exact h
  | give r => exact { h with }
  | request k d => exact h.request k d
  | cfgWrite idx v => exact h.cfgWrite idx v
  | take => exact h.takeResponse
  | reserved => exact { h with }
  | receive bs => exact h.pushBytes bs
  | transmit => exact h.txAccept
  | tick => exact h.tick
  | reset => exact h.doReset

end

/-! ## The obligation -/

/-- Settles O10: a step is idle or one event, and each of the ten effects of an event keeps the invariant. -/
theorem stepKeepsTheInvariant : Obligations.StepKeepsTheInvariant := by
  unfold Obligations.StepKeepsTheInvariant
  intro s t h hstep
  obtain rfl | ⟨i, ins, hs, hex⟩ := event_of_step hstep
  · exact h
  · have hq : Inv { s with inputs := ins, held := hs } := { h with }
    exact hq.effect (effect_of_exec hex)

end Sys2Proof.Machine
end

/-! # Proofs: the frame on the wire, the entry poll, and the bytes no poll has drained (20_memory.md R72, R77;
45_transaction_engine.md R288 to R297) -/

section
namespace Sys2Proof.Machine

/-! ## The bytes on the wire -/

section
variable {s t : State}

/-- Outputs that are no bytes put nothing on the wire. -/
theorem wire_of_noByte {os : List Output} (h : ∀ o ∈ os, ∀ b, o ≠ .txByte b) (ht : t.outputs = s.outputs ++ os) :
    t.wire = s.wire := by
  have hos : ({ s with outputs := os } : State).wire = [] := by
    refine List.filterMap_eq_nil_iff.2 fun o ho => ?_
    cases o with
    | txByte b => exact absurd rfl (h _ ho b)
    | _ => rfl
  unfold State.wire at hos ⊢
  rw [ht, List.filterMap_append, hos, List.append_nil]

/-- Bytes that are put out come after those already on the wire, in their order. -/
theorem wire_of_bytes {bs : List Byte} (ht : t.outputs = s.outputs ++ bs.map .txByte) : t.wire = s.wire ++ bs := by
  unfold State.wire
  rw [ht, List.filterMap_append, List.filterMap_map]
  exact congrArg _ List.filterMap_some

theorem noByte_of_onlyDiags {ds : List Output} (h : onlyDiags ds) : ∀ o ∈ ds, ∀ b, o ≠ .txByte b := by
  intro o ho b
  obtain ⟨a, n, p, rfl⟩ := h o ho
  nofun

@[simp] theorem State.finish_wire (s : State) (st : Status) (k : Kind) (a : DevAddr) (p : List Byte) (r : Reason) :
    (s.finish st k a p r).wire = s.wire :=
  wire_of_noByte (os := [.response (mkRsp st k a p r)]) (by simp) rfl

/-! ## The end of SEND -/

/-- `t` is not sending, and nothing went onto the wire from `s` to `t`. -/
def SentFrom (s t : State) : Prop := t.fsm ≠ .send ∧ t.wire = s.wire

/-- A poll outside SEND puts out no byte and does not go back to SEND (R296, R298). -/
theorem sentFrom_pollAndGate (hs : s.fsm ≠ .send) : SentFrom s s.pollAndGate := by
  obtain ⟨ds, hds, hcases⟩ := pollAndGate_cases s
  have hfsm : s.deframe.2.fsm = s.fsm := by rw [deframe_state s]
  have hwire : ({ s.deframe.2 with outputs := s.outputs ++ ds } : State).wire = s.wire :=
    wire_of_noByte (noByte_of_onlyDiags hds) rfl
  obtain ⟨h, -⟩ | ⟨h, -⟩ | ⟨f, -, -, -, h⟩ := hcases <;> rw [h]
  · exact ⟨fun hsend => hs (hfsm.symm.trans hsend), hwire⟩
  · exact ⟨nofun, (State.finish_wire ..).trans hwire⟩
  · exact ⟨nofun, (State.finish_wire ..).trans hwire⟩

theorem sentFrom_afterSettle (s : State) : SentFrom s s.afterSettle := by
  by_cases hk : s.latKind = .cmd
  · rw [afterSettle_of_cmd hk]
    exact ⟨nofun, State.finish_wire ..⟩
  · rw [afterSettle_of_waiting hk]
    exact sentFrom_pollAndGate (s := { s with fsm := .wait, waitCnt := 0, pollCnt := 0 }) nofun

theorem sentFrom_endSend (s : State) : SentFrom s s.endSend := by
  by_cases hl : s.latSettle = 0
  · rw [endSend_of_zero hl]
    exact sentFrom_afterSettle s
  · rw [endSend_of_delay hl]
    exact ⟨nofun, rfl⟩

/-! ## A run of TX_ACCEPTs -/

/-- The block in the middle of a frame: the first `n` bytes of it are out, and nothing else has happened. -/
def State.sentBytes (n : Nat) (s : State) : State :=
  { s with txIdx := BitVec.ofNat 5 n, outputs := s.outputs ++ (s.txFrame.take n).map .txByte }

theorem wire_sentBytes (n : Nat) (s : State) : (s.sentBytes n).wire = s.wire ++ s.txFrame.take n :=
  wire_of_bytes rfl

theorem sentBytes_zero (h : s.txIdx = 0) : s.sentBytes 0 = s := by
  simp only [State.sentBytes, List.take_zero, List.map_nil, List.append_nil]
  rw [← show s.txIdx = BitVec.ofNat 5 0 from h]

/-- A frame of the transmit buffer has the length `tx_len` (R35). -/
theorem txFrame_length (h : s.txLen.toNat ≤ 16) : s.txFrame.length = s.txLen.toNat := by
  simp [State.txFrame, h]

/-- The byte offered at an index below `tx_len` is the byte of the frame at that index (R104). -/
theorem txData_sentBytes {n : Nat} (hn : n < s.txFrame.length) : (s.sentBytes n).txData = s.txFrame[n] := by
  have h16 : n < s.txbuf.toList.length ∧ n < 16 := by
    simp [State.txFrame] at hn
    simp
    omega
  have hidx : (BitVec.ofNat 5 n).toNat = n := by simp; omega
  show s.txbuf.toList.getD (BitVec.ofNat 5 n).toNat 0 = _
  rw [hidx, List.getD_eq_getElem _ _ h16.1]
  simp [State.txFrame]

/-- One more TX_ACCEPT: the next byte is out, and the last one ends the frame (R288). -/
theorem txAccept_sentBytes {n : Nat} (hs : s.fsm = .send) (h16 : s.txLen.toNat ≤ 16) (hn : n < s.txLen.toNat) :
    (s.sentBytes n).txAccept =
      if n + 1 = s.txLen.toNat then (s.sentBytes (n + 1)).endSend else s.sentBytes (n + 1) := by
  have hn' : n < s.txFrame.length := by rwa [txFrame_length h16]
  have hnext : ({ s.sentBytes n with
      txIdx := (s.sentBytes n).txIdx + 1
      outputs := (s.sentBytes n).outputs ++ [.txByte (s.sentBytes n).txData] } : State) = s.sentBytes (n + 1) := by
    rw [txData_sentBytes hn']
    unfold State.sentBytes
    rw [List.take_succ_eq_append_getElem hn', List.map_append, ← List.append_assoc, BitVec.ofNat_add]
    rfl
  have hlast : (s.sentBytes n).txIdx + 1 = (s.sentBytes n).txLen ↔ n + 1 = s.txLen.toNat := by
    show BitVec.ofNat 5 n + 1 = s.txLen ↔ _
    rw [← BitVec.toNat_inj]
    simp
    omega
  rw [txAccept_of_send (s := s.sentBytes n) hs, hnext]
  simp only [hlast]

/-- A run of TX_ACCEPTs is TX_ACCEPT iterated. -/
theorem execAll_txacc (n : Nat) (s : State) : execAll (List.replicate n .txacc) s = .next (State.txAccept^[n] s) := by
  induction n generalizing s with
  | zero => rfl
  | succ n ih => exact ih s.txAccept

/-- Fewer TX_ACCEPTs than `tx_len` leave the block in the middle of the frame (R288). -/
theorem iterate_txAccept {n : Nat} (hs : s.fsm = .send) (h0 : s.txIdx = 0) (h16 : s.txLen.toNat ≤ 16)
    (hn : n < s.txLen.toNat) : State.txAccept^[n] s = s.sentBytes n := by
  induction n with
  | zero => exact (sentBytes_zero h0).symm
  | succ n ih =>
    rw [Function.iterate_succ_apply', ih (by omega), txAccept_sentBytes hs h16 (by omega), if_neg (by omega)]

/-- As many TX_ACCEPTs as `tx_len` send the frame and end it (R288, R289). -/
theorem iterate_txAccept_txLen (hs : s.fsm = .send) (h0 : s.txIdx = 0) (h16 : s.txLen.toNat ≤ 16)
    (hpos : 0 < s.txLen.toNat) : State.txAccept^[s.txLen.toNat] s = (s.sentBytes s.txLen.toNat).endSend := by
  obtain ⟨n, hn⟩ := Nat.exists_eq_add_one.2 hpos
  rw [hn, Function.iterate_succ_apply', iterate_txAccept hs h0 h16 (by omega),
    txAccept_sentBytes hs h16 (by omega), if_pos hn.symm]

/-! ## The entry poll -/

/-- The state from which the entry poll starts when the offered byte was the last (R288, R292). -/
def State.waitEntry (s : State) : State :=
  { s with
    txIdx := s.txIdx + 1
    fsm := .wait
    waitCnt := 0
    pollCnt := 0
    outputs := s.outputs ++ [.txByte s.txData] }

theorem waitEntry_records (s : State) : s.waitEntry.records = s.records :=
  records_of_noResponse (os := [.txByte s.txData]) (by simp) rfl

/-- The last TX_ACCEPT of a waiting kind without a settle delay enters WAIT and polls (R288, R289, R291, R292). -/
theorem txAccept_enters_wait (hs : s.fsm = .send) (hlast : s.txIdx + 1 = s.txLen) (hl : s.latSettle = 0)
    (hk : s.latKind ≠ .cmd) :
    s.txAccept = s.waitEntry.pollAndGate := by
  rw [txAccept_of_send hs, if_pos hlast, endSend_of_zero (by exact hl), afterSettle_of_waiting (by exact hk)]
  rfl

theorem ne_cmd_of_endsWait {q : ReqKind} {k : Kind} (h : EndsWait q k) : q ≠ .cmd := by
  rintro rfl
  exact absurd ((endsWait_iff_resolves _ _).1 h) nofun

/-- A poll resolves on the first frame that qualifies, behind whole frames that do not and before any bytes: the record
is that frame's and the only one, the FIFO is drained, and the elapsed count stands (R296, R297, R309). -/
theorem pollAndGate_resolves_chunk {fs : List (Byte × List Byte)} {h : Byte} {p rest : List Byte} {k : Kind}
    (hf : s.freshDeframer) (hfs : ∀ f ∈ fs, Passes s.latKind s.latAddr f)
    (hx : s.rxFifo = chunkOf fs ++ frameBytes h p ++ rest) (hw : WholeFrame h p) (ha : FromDevice s.latAddr h)
    (hk : HasKind p k) (he : EndsWait s.latKind k) :
    s.pollAndGate.fsm = .done ∧ ResolvedRecord s.pollAndGate.rsp k s.latAddr p ∧ s.pollAndGate.rxFifo = [] ∧
      s.pollAndGate.waitCnt = s.waitCnt ∧ s.pollAndGate.records = s.records ++ [s.pollAndGate.rsp] := by
  obtain rfl := (hasKind_iff_classify p k).1 hk
  have hwhole : ∀ f ∈ fs ++ [(h, p)], WholeFrame f.1 f.2 :=
    List.forall_mem_append.2 ⟨fun f hm => (hfs f hm).1, List.forall_mem_singleton.2 hw⟩
  obtain ⟨gs, hgs⟩ := deframe_chunkOf (rest := rest) hf hwhole (by simpa using hx)
  obtain ⟨ds, hds, hpoll⟩ := pollAndGate_resolves (by simpa using hgs) hfs
    ((fromDevice_iff_addressedTo _ _).1 ha) ((endsWait_iff_resolves _ _).1 he)
  have hrec : ({ s.deframe.2 with outputs := s.outputs ++ ds } : State).records = s.records :=
    records_of_noResponse (noResponse_of_onlyDiags (onlyDiags_of_reports hds)) rfl
  rw [hpoll, State.finish_records, hrec, ha.2, deframe_state s]
  exact ⟨rfl, mkRsp_resolved hw.2.2.2, rfl, rfl, rfl⟩

/-! ## The FIFO outside polls -/

/-- The end of the settle delay of a CMD does not poll (R291). -/
theorem afterSettle_rxFifo (hk : s.latKind = .cmd) : s.afterSettle.rxFifo = s.rxFifo := by
  rw [afterSettle_of_cmd hk, State.finish_rxFifo]

/-- A TX_ACCEPT that is not one that can poll leaves the FIFO alone (R288, R289). -/
theorem txAccept_rxFifo
    (h : ¬ (s.fsm = .send ∧ s.txIdx + 1 = s.txLen ∧ s.latSettle = 0 ∧ s.latKind ≠ .cmd)) :
    s.txAccept.rxFifo = s.rxFifo := by
  by_cases hs : s.fsm = .send
  case neg => rw [txAccept_of_ne_send hs]
  case pos =>
    rw [txAccept_of_send hs]
    split
    case isFalse => rfl
    case isTrue hlast =>
      by_cases hl : s.latSettle = 0
      · have hk : s.latKind = .cmd := not_not.1 fun hne => h ⟨hs, hlast, hl, hne⟩
        rw [endSend_of_zero (by exact hl), afterSettle_rxFifo (by exact hk)]
      · rw [endSend_of_delay (by exact hl)]

/-- A TICK of the settle delay that is not one that can poll leaves the FIFO alone (R290, R291). -/
theorem tickSettle_rxFifo (h : s.latSettle.toNat ≤ s.settleCnt.toNat + 1 → s.latKind = .cmd) :
    s.tickSettle.rxFifo = s.rxFifo := by
  unfold State.tickSettle
  dsimp only
  split
  case isFalse => rfl
  case isTrue hreached =>
    have hsucc : (s.settleCnt + 1).toNat ≤ s.settleCnt.toNat + 1 := by simp; omega
    exact afterSettle_rxFifo (s := { s with settleCnt := s.settleCnt + 1 })
      (h ((BitVec.le_def.1 hreached).trans hsucc))

/-- A TICK of the wait before the poll spacing is reached leaves the FIFO alone (R294). -/
theorem tickWait_rxFifo (h : s.pollCnt.toNat + 1 < max s.latPoll.toNat 1) : s.tickWait.rxFifo = s.rxFifo := by
  rw [tickWait_between h]

end

/-- Every event but RESET that does not poll keeps the bytes of the FIFO in place (R77). -/
theorem Effect.keeps_rxFifo {i : Instr} {s t : State} (he : Effect i s t) (hi : i ≠ .reset) (hp : ¬ MayPoll i s) :
    s.rxFifo <+: t.rxFifo := by
  suffices t.rxFifo = s.rxFifo ∨ ∃ bs, t = s.pushBytes bs by
    obtain h | ⟨bs, rfl⟩ := this
    · rw [h]
    · obtain ⟨kept, o, h, -⟩ := pushBytes_cases s bs
      rw [h]
      exact ⟨kept, rfl⟩
  cases he with
  | unchanged | give | reserved => exact .inl rfl
  | request k d =>
    obtain ⟨-, -, h⟩ | ⟨-, -, h⟩ | ⟨-, h⟩ := request_cases s k d <;> rw [h] <;> exact .inl rfl
  | cfgWrite idx v =>
    left
    unfold State.cfgWrite
    split <;> rfl
  | take =>
    left
    unfold State.takeResponse
    split <;> rfl
  | receive bs => exact .inr ⟨bs, rfl⟩
  | transmit htx => exact .inl (txAccept_rxFifo fun h => hp (.inr (.inr ⟨htx, h⟩)))
  | tick htick =>
    left
    cases hs : s.fsm with
    | settle =>
      rw [tick_of_settle hs]
      exact tickSettle_rxFifo fun hle => not_not.1 fun hk => hp (.inr (.inl ⟨htick, hs, hle, hk⟩))
    | wait =>
      rw [tick_of_wait hs]
      exact tickWait_rxFifo (Nat.lt_of_not_le fun hle => hp (.inl ⟨htick, hs, hle⟩))
    | idle | send | done => rw [tick_of_quiet (by simp [hs])]
  | reset hreset => exact absurd hreset hi

/-! ## The obligations -/

/-- Settles O26: the last TX_ACCEPT enters WAIT, and the entry poll resolves on the first qualifying frame. -/
theorem staleFrameResolvesAtWaitEntry : Obligations.StaleFrameResolvesAtWaitEntry := by
  unfold Obligations.StaleFrameResolvesAtWaitEntry
  intro s fs h p rest k hs hlast hl hf hfs hx hw ha hk he
  obtain ⟨hdone, hrsp, hfifo, hcnt, hrec⟩ := pollAndGate_resolves_chunk (s := s.waitEntry) hf hfs hx hw ha hk he
  rw [waitEntry_records] at hrec
  have hpoll : exec .txacc s = .next s.waitEntry.pollAndGate :=
    congrArg Host.Outcome.next (txAccept_enters_wait hs hlast hl (ne_cmd_of_endsWait he))
  exact ⟨_, hpoll, hdone, hrsp, hfifo, hcnt, hrec⟩

/-- Settles O27: by induction on the number of TX_ACCEPTs, each puts the next byte of the frame on the wire. -/
theorem sendPutsTheWholeFrameOnTheWire : Obligations.SendPutsTheWholeFrameOnTheWire := by
  unfold Obligations.SendPutsTheWholeFrameOnTheWire
  intro s hinv hs h0
  have h16 : s.txLen.toNat ≤ 16 := by have := hinv.txLen; omega
  refine ⟨fun n hn => ⟨_, execAll_txacc n s, ?_⟩, _, execAll_txacc _ s, ?_⟩
  · rw [iterate_txAccept hs h0 h16 hn]
    exact ⟨hs, wire_sentBytes n s⟩
  · obtain ⟨hfsm, hwire⟩ := sentFrom_endSend (s.sentBytes s.txLen.toNat)
    rw [iterate_txAccept_txLen hs h0 h16 (Nat.zero_lt_of_lt (hinv.sending hs))]
    refine ⟨hfsm, ?_⟩
    rw [hwire, wire_sentBytes, ← txFrame_length h16, List.take_length]

/-- Settles O59: of the ten effects of an event, only TX_ACCEPT and TICK can poll, and only where `MayPoll` says. -/
theorem unpolledBytesStayInTheFifo : Obligations.UnpolledBytesStayInTheFifo := by
  unfold Obligations.UnpolledBytesStayInTheFifo
  intro i s t h hi hp
  exact (effect_of_exec h).keeps_rxFifo hi hp

end Sys2Proof.Machine
end

/-! # Proofs: the op map, and the words the encoder writes (30_encoding.md R100 to R103, R115, R117) -/

section
namespace Sys2Proof.Machine

/-! ## From an op value to the instruction of its row -/

/-- An operation is the instruction of the row its op value is in. -/
theorem decode_of_op {w : HostOp} {op : BitVec 8} (h : w.op = op) : decode (.hostOp w) = rowInstr (opRow op) w :=
  h ▸ decodeHostOp_eq_rowInstr w

theorem decode_of_row {w : HostOp} {op : BitVec 8} {k : Nat} (h : w.op = op) (hk : opRow op = k) :
    decode (.hostOp w) = rowInstr k w :=
  hk ▸ decode_of_op h

theorem opRow_cfgw (idx : BitVec 3) : opRow (0b00100#5 ++ idx) = 4 := by decide +revert

theorem opRow_cfgr (idx : BitVec 3) : opRow (0b00110#5 ++ idx) = 5 := by decide +revert

theorem decode_cfgw {w : HostOp} {idx : BitVec 3} (h : w.op = 0b00100#5 ++ idx) :
    decode (.hostOp w) = .cfgw idx w.arg := by
  rw [decode_of_row h (opRow_cfgw idx)]
  show Instr.cfgw (w.op.extractLsb' 0 3) w.arg = _
  rw [h, BitVec.extractLsb'_append_eq_right]

theorem decode_cfgr {w : HostOp} {idx : BitVec 3} (h : w.op = 0b00110#5 ++ idx) : decode (.hostOp w) = .cfgr idx := by
  rw [decode_of_row h (opRow_cfgr idx)]
  show Instr.cfgr (w.op.extractLsb' 0 3) = _
  rw [h, BitVec.extractLsb'_append_eq_right]

/-- The rows from 18 on are the thirteen reserved rows. -/
theorem isReserved_rowInstr {k : Nat} (w : HostOp) (h18 : 18 ≤ k) (h31 : k < 31) :
    isReserved (rowInstr k w) = true := by
  interval_cases k <;> rfl

set_option maxRecDepth 20000 in
/-- The reserved ranges of R102 lie in the reserved rows. -/
theorem opRow_of_reservedRange : ∀ op : BitVec 8,
    op.toNat ≤ 0x0F ∨ (0x14 ≤ op.toNat ∧ op.toNat ≤ 0x1F) ∨ (0x28 ≤ op.toNat ∧ op.toNat ≤ 0x2F) ∨
      (0x38 ≤ op.toNat ∧ op.toNat ≤ 0x3F) ∨ (0x41 ≤ op.toNat ∧ op.toNat ≤ 0x4F) ∨ 0x5B ≤ op.toNat →
    18 ≤ opRow op := by decide

/-- Settles O2: each op value is looked up in its row; the reserved ranges lie in the reserved rows. -/
theorem operationMapCoversEveryOp : Obligations.OperationMapCoversEveryOp := by
  unfold Obligations.OperationMapCoversEveryOp
  intro w
  refine ⟨decode_of_op, decode_of_op, decode_of_op, decode_of_op, ?cfgw, ?cfgr, decode_of_op, decode_of_op,
    decode_of_op, decode_of_op, decode_of_op, decode_of_op, decode_of_op, decode_of_op, decode_of_op, decode_of_op,
    decode_of_op, decode_of_op, ?reserved⟩
  case cfgw =>
    intro idx h
    exact decode_cfgw (BitVec.eq_of_toNat_eq (h.trans ((by decide : ∀ x : BitVec 3,
      0x20 + x.toNat = (0b00100#5 ++ x).toNat) idx)))
  case cfgr =>
    intro idx h
    exact decode_cfgr (BitVec.eq_of_toNat_eq (h.trans ((by decide : ∀ x : BitVec 3,
      0x30 + x.toNat = (0b00110#5 ++ x).toNat) idx)))
  case reserved =>
    intro h
    rw [decode_of_op rfl]
    exact isReserved_rowInstr w (opRow_of_reservedRange w.op h) (opRow_tests w.op).1

end Sys2Proof.Machine
end

/-! # Proofs: decoding what the encoder writes (30_encoding.md R102, R107, R111, R115, R117) -/

section
namespace Sys2Proof.Machine

/-! ## One host operation -/

/-- What the encoder writes for a host operation decodes to `i` if every operation with that op value, argument and
data does. -/
theorem map_decode_opWord {op : BitVec 8} {a : Word} {d : List Byte} {i : Instr} (hd : dataFits d = true)
    (h : ∀ w : HostOp, w.op = op → w.arg = a → w.bytes = d → decode (.hostOp w) = i) :
    [opWord op a d].map decode = [i] :=
  congrArg (fun i => [i]) (h _ rfl rfl (bytes_of_pad op a (of_decide_eq_true hd)))

/-- The rows whose one operand is the data. -/
theorem map_decode_data {op : BitVec 8} {a : Word} {d : List Byte} {f : List Byte → Instr} (hd : dataFits d = true)
    (hf : ∀ w, rowInstr (opRow op) w = f w.bytes) : [opWord op a d].map decode = [f d] :=
  map_decode_opWord hd fun w hop _ hb => by rw [decode_of_op hop, hf, hb]

theorem map_decode_reqCmd {d : List Byte} (hd : dataFits d = true) : [opWord 0x10 0 d].map decode = [.reqCmd d] :=
  map_decode_data hd fun _ => rfl

theorem map_decode_reqInq {d : List Byte} (hd : dataFits d = true) : [opWord 0x12 0 d].map decode = [.reqInq d] :=
  map_decode_data hd fun _ => rfl

/-- The rows whose one operand is the low bits of the op value. -/
theorem map_decode_lowBits {op : BitVec 8} {n : Nat} {lo : BitVec n} {f : BitVec n → Instr} (k : Nat)
    (hk : opRow op = k) (hlo : op.extractLsb' 0 n = lo) (hf : ∀ w, rowInstr k w = f (w.op.extractLsb' 0 n)) :
    [opWord op 0 []].map decode = [f lo] :=
  map_decode_opWord rfl fun w hop _ _ => by rw [decode_of_row hop hk, hf, hop, hlo]

/-! ## The operands that the encoder packs into the argument -/

theorem nibField_off (off n : BitVec 4) : (0#24 ++ n ++ off).extractLsb' 0 4 = off :=
  BitVec.extractLsb'_append_eq_right

theorem nibField_count (off n : BitVec 4) : (0#24 ++ n ++ off).extractLsb' 4 4 = n :=
  (BitVec.extractLsb'_append_eq_of_le (le_refl 4)).trans BitVec.extractLsb'_append_eq_right

/-! ## Reply frames -/

/-- The bytes of a reply frame, one RX_BYTE each, are what the row stands for. -/
theorem expand_of_replyFrame {i : Instr} {h : Byte} {p : List Byte} (hi : replyFrame i = some (h, p)) :
    expand i = (frameBytes h p).map .rx := by
  cases i with
  | rspAck | rspCompletion | rspSyntaxError | rspNotExecutable => cases hi; rfl
  | rspInquiryReply | rspOther => cases hi; simp [expand, frameBytes]
  | _ => cases hi

theorem encode_of_replyFrame {i : Instr} {h : Byte} {p : List Byte} (hi : replyFrame i = some (h, p)) :
    encode i = rxFrame h p := by
  cases i with
  | rspAck | rspCompletion | rspInquiryReply | rspSyntaxError | rspNotExecutable | rspOther => cases hi; rfl
  | _ => cases hi

theorem map_decode_rxFrame (h : Byte) (p : List Byte) : (rxFrame h p).map decode = (frameBytes h p).map .rx := by
  simp [rxFrame, frameBytes, decode]

theorem map_decode_encode_of_replyFrame {i : Instr} {h : Byte} {p : List Byte} (hi : replyFrame i = some (h, p)) :
    (encode i).map decode = expand i := by
  rw [encode_of_replyFrame hi, map_decode_rxFrame, expand_of_replyFrame hi]

/-! ## The obligation -/

/-- Settles O1, row by row: a row with data by the round trip of the data, a row with free op bits by those bits, a
reply frame byte by byte. -/
theorem encodedInstructionsDecodeBack : Obligations.EncodedInstructionsDecodeBack := by
  unfold Obligations.EncodedInstructionsDecodeBack
  intro i hwf
  cases i with
  | reqCmd d | reqCmdWait d | reqInq d | reqK3 d | nibCombine d | decBool d | decNumreg d | decPantilt d
  | decVersion d | classify d | split d => exact map_decode_data hwf fun _ => rfl
  | cmdPowerOn | cmdPowerOff | cmdZoomIn | cmdZoomStop | cmdMove | cmdMoveStop | cmdHome | cmdPtReset | cmdPresetRecall
  | cmdPresetStore => exact map_decode_reqCmd rfl
  | inqPower | inqPantiltPos | inqVersion | inqRedGain => exact map_decode_reqInq rfl
  | cfgw idx v => exact map_decode_opWord rfl fun w hop ha _ => ha ▸ decode_cfgw hop
  | cfgr idx => exact map_decode_opWord rfl fun w hop _ _ => decode_cfgr hop
  | take => exact map_decode_opWord rfl fun w hop _ _ => decode_of_op hop
  | nibSplit v n => exact congrArg (fun i => [i]) (decode_of_op (op := 0x50) rfl)
  | nibField d off n =>
    refine map_decode_opWord hwf fun w hop ha hb => ?_
    rw [decode_of_op hop]
    show Instr.nibField w.bytes (w.arg.extractLsb' 0 4) (w.arg.extractLsb' 4 4) = _
    rw [ha, hb, nibField_off, nibField_count]
  | frameEnc a d =>
    refine map_decode_opWord hwf fun w hop ha hb => ?_
    rw [decode_of_op hop]
    show Instr.frameEnc (w.arg.extractLsb' 0 3) w.bytes = _
    rw [ha, hb, BitVec.extractLsb'_setWidth_of_le (by decide), BitVec.extractLsb'_eq_self]
  | addrDec h =>
    refine map_decode_opWord rfl fun w hop ha _ => ?_
    rw [decode_of_op hop]
    show Instr.addrDec (w.arg.extractLsb' 0 8) = _
    rw [ha, BitVec.extractLsb'_setWidth_of_le (by decide), BitVec.extractLsb'_eq_self]
  | reserved00 lo => exact map_decode_lowBits 18 (by decide +revert) BitVec.extractLsb'_append_eq_right fun _ => rfl
  | reserved14 lo => exact map_decode_lowBits 19 (by decide +revert) BitVec.extractLsb'_append_eq_right fun _ => rfl
  | reserved18 lo => exact map_decode_lowBits 20 (by decide +revert) BitVec.extractLsb'_append_eq_right fun _ => rfl
  | reserved28 lo => exact map_decode_lowBits 21 (by decide +revert) BitVec.extractLsb'_append_eq_right fun _ => rfl
  | reserved38 lo => exact map_decode_lowBits 22 (by decide +revert) BitVec.extractLsb'_append_eq_right fun _ => rfl
  | reserved41 => exact map_decode_opWord rfl fun w hop _ _ => decode_of_op hop
  | reserved42 lo => exact map_decode_lowBits 24 (by decide +revert) BitVec.extractLsb'_append_eq_right fun _ => rfl
  | reserved44 lo => exact map_decode_lowBits 25 (by decide +revert) BitVec.extractLsb'_append_eq_right fun _ => rfl
  | reserved48 lo => exact map_decode_lowBits 26 (by decide +revert) BitVec.extractLsb'_append_eq_right fun _ => rfl
  | reserved5B => exact map_decode_opWord rfl fun w hop _ _ => decode_of_op hop
  | reserved5C lo => exact map_decode_lowBits 28 (by decide +revert) BitVec.extractLsb'_append_eq_right fun _ => rfl
  | reserved60 lo => exact map_decode_lowBits 29 (by decide +revert) BitVec.extractLsb'_append_eq_right fun _ => rfl
  | reserved80 lo => exact map_decode_lowBits 30 (by decide +revert) BitVec.extractLsb'_append_eq_right fun _ => rfl
  | txacc | rx | tick | reset | hdrOut | hdrIn => rfl
  | term dir => cases dir <;> rfl
  | rspAck | rspCompletion | rspInquiryReply | rspSyntaxError | rspNotExecutable | rspOther =>
    exact map_decode_encode_of_replyFrame rfl

end Sys2Proof.Machine
end

/-! # Proofs: what the second names and the reserved rows do (30_encoding.md R103 to R117; logs 6, 8, 9) -/

section
namespace Sys2Proof.Machine

section
variable {s : State} {i : Instr}

/-! ## Runs of core instructions -/

theorem execAll_singleton (i : Instr) (s : State) : execAll [i] s = exec i s := by
  unfold execAll
  cases exec i s <;> rfl

/-- A run of RX_BYTEs receives their bytes (R316). -/
theorem execAll_rx (bs : List Byte) (s : State) : execAll (bs.map .rx) s = .next (s.pushBytes bs) := by
  induction bs generalizing s with
  | nil => rfl
  | cons b bs ih => exact ih (s.pushByte b)

/-! ## Reply frames -/

/-- A reply frame arrives as its bytes (R107, R111). -/
theorem exec_of_replyFrame {h : Byte} {p : List Byte} (hi : replyFrame i = some (h, p)) :
    exec i s = .next (s.pushBytes (frameBytes h p)) := by
  cases i with
  | rspAck | rspCompletion | rspInquiryReply | rspSyntaxError | rspNotExecutable | rspOther => cases hi; rfl
  | _ => cases hi

theorem exec_eq_execAll_of_replyFrame {h : Byte} {p : List Byte} (hi : replyFrame i = some (h, p)) :
    exec i s = execAll (expand i) s := by
  rw [exec_of_replyFrame hi, expand_of_replyFrame hi, execAll_rx]

/-! ## Catalog names -/

/-- A command of the catalog with an admitted operand is its REQ (R117, R236). -/
theorem requestIf_of_admitted {admitted : Bool} {d : List Byte} (h : admitted = true) :
    requestIf admitted .cmd d s = exec (.reqCmd d) s :=
  if_pos h

/-! ## Wire bytes that leave the block -/

theorem offers_iff {n : BitVec 5} {b : Byte} :
    s.offers n b = true ↔ s.fsm = .send ∧ s.txIdx = n ∧ s.txData = b := by
  simp [State.offers, and_assoc]

theorem txData_eq_getElem {j : Fin 16} (hj : s.txIdx.toNat = j.val) : s.txData = s.txbuf[j] := by
  simp [State.txData, hj, List.getD_eq_getElem?_getD]

/-- `tx_idx` is at the last byte of the frame (R288). -/
theorem txIdx_eq_last_iff : s.txIdx = s.txLen - 1 ↔ s.txIdx + 1 = s.txLen :=
  eq_sub_iff_add_eq

/-- A byte before the last goes out and nothing else happens (R288). -/
theorem txAccept_before_last {j : Fin 16} (hs : s.fsm = .send) (hj : s.txIdx.toNat = j.val)
    (hne : s.txIdx + 1 ≠ s.txLen) :
    s.txAccept = { s with txIdx := s.txIdx + 1, outputs := s.outputs ++ [.txByte s.txbuf[j]] } := by
  rw [txAccept_of_send hs, if_neg hne, txData_eq_getElem hj]

/-- The last byte goes out and a settle delay begins (R288, R289). -/
theorem txAccept_last_settles {j : Fin 16} (hs : s.fsm = .send) (hj : s.txIdx.toNat = j.val)
    (hlast : s.txIdx + 1 = s.txLen) (hl : s.latSettle ≠ 0) :
    s.txAccept = { s with
      txIdx := s.txLen, settleCnt := 0, fsm := .settle, outputs := s.outputs ++ [.txByte s.txbuf[j]] } := by
  rw [txAccept_of_send hs, if_pos hlast, endSend_of_delay (by exact hl), txData_eq_getElem hj, hlast]

theorem exec_hdrOut_of_offers {a : DevAddr} (h : s.offers 0 (outHeader a) = true) :
    exec (.hdrOut a) s = exec .txacc s :=
  congrArg Host.Outcome.next (if_pos h)

theorem exec_hdrOut_of_not_offers {a : DevAddr} (h : s.offers 0 (outHeader a) ≠ true) :
    exec (.hdrOut a) s = .next s :=
  congrArg Host.Outcome.next (if_neg h)

theorem exec_termOut_of_offers (h : s.offers (s.txLen - 1) terminator = true) :
    exec (.term .outbound) s = exec .txacc s :=
  congrArg Host.Outcome.next (if_pos h)

theorem exec_termOut_of_not_offers (h : s.offers (s.txLen - 1) terminator ≠ true) :
    exec (.term .outbound) s = .next s :=
  congrArg Host.Outcome.next (if_neg h)

end

theorem outHeader_eq (a : DevAddr) : outHeader a = 0x80#8 + a.setWidth 8 := by decide +revert

theorem outHeader_eq_ofNat (a : DevAddr) : outHeader a = BitVec.ofNat 8 (0x80 + a.toNat) := by decide +revert

theorem inHeader_eq_ofNat (a : DevAddr) (x : BitVec 4) :
    inHeader a x = BitVec.ofNat 8 (0x80 + 16 * a.toNat + x.toNat) := by decide +revert

/-! ## The obligations -/

/-- Settles O23: a catalog name is one REQ, a wire byte one event, a reply frame one RX_BYTE per byte. -/
theorem secondNamesRunAsTheirExpansions : Obligations.SecondNamesRunAsTheirExpansions := by
  unfold Obligations.SecondNamesRunAsTheirExpansions
  intro i s hwf hhdr hterm
  cases i with
  | rspAck | rspCompletion | rspInquiryReply | rspSyntaxError | rspNotExecutable | rspOther =>
    exact exec_eq_execAll_of_replyFrame rfl
  | cmdZoomIn | cmdMove | cmdPresetRecall | cmdPresetStore =>
    exact (requestIf_of_admitted hwf).trans (execAll_singleton _ s).symm
  | hdrOut a =>
    have ho := hhdr a rfl
    rw [← outHeader_eq] at ho
    exact (exec_hdrOut_of_offers ho).trans (execAll_singleton _ s).symm
  | term dir =>
    cases dir
    case inbound => exact (execAll_singleton _ s).symm
    case outbound => exact (exec_termOut_of_offers (hterm rfl)).trans (execAll_singleton _ s).symm
  | _ => exact (execAll_singleton _ s).symm

/-- Settles O40: an inbound byte is pushed; an outbound one is the TX_ACCEPT exactly where SEND offers it. -/
theorem wireBytesActAsTheirEvents : Obligations.WireBytesActAsTheirEvents := by
  unfold Obligations.WireBytesActAsTheirEvents
  intro s
  have first (h0 : s.txIdx = 0) : s.txIdx.toNat = (0 : Fin 16).val := by rw [h0]; rfl
  simp only [← outHeader_eq_ofNat, ← inHeader_eq_ofNat]
  have hdrOut {a : DevAddr} (hs : s.fsm = .send) (h0 : s.txIdx = 0) (hb : s.txbuf[(0 : Fin 16)] = outHeader a) :
      exec (.hdrOut a) s = exec .txacc s :=
    exec_hdrOut_of_offers (offers_iff.2 ⟨hs, h0, (txData_eq_getElem (first h0)).trans hb⟩)
  have termOut {j : Fin 16} (hs : s.fsm = .send) (hj : s.txIdx.toNat = j.val) (hlast : s.txIdx + 1 = s.txLen)
      (hb : s.txbuf[j] = terminator) : exec (.term .outbound) s = exec .txacc s :=
    exec_termOut_of_offers (offers_iff.2 ⟨hs, txIdx_eq_last_iff.2 hlast, (txData_eq_getElem hj).trans hb⟩)
  refine ⟨?hdrIn, ?termIn, ?hdrSent, fun a => hdrOut, ?hdrNot, ?termSent, fun j => termOut, ?termNot, ?termOther⟩
  case hdrIn => exact fun a x hroom => congrArg Host.Outcome.next (pushByte_of_room hroom)
  case termIn => exact fun hroom => congrArg Host.Outcome.next (pushByte_of_room hroom)
  case hdrSent =>
    intro a hs h0 hlen hb
    have hne : s.txIdx + 1 ≠ s.txLen := by rw [h0]; exact hlen.symm
    have hacc := txAccept_before_last hs (first h0) hne
    rw [h0, hb] at hacc
    exact (hdrOut hs h0 hb).trans (congrArg Host.Outcome.next hacc)
  case hdrNot =>
    intro a h
    refine exec_hdrOut_of_not_offers fun ho => ?_
    obtain ⟨hs, h0, hb⟩ := offers_iff.1 ho
    rw [txData_eq_getElem (first h0)] at hb
    exact h.elim (· hs) (·.elim (· h0) (· hb))
  case termSent =>
    intro j hs hj hlen hb hl
    have hlast : s.txIdx + 1 = s.txLen := BitVec.eq_of_toNat_eq (by simp; omega)
    have hacc := txAccept_last_settles hs hj hlast hl
    rw [hb] at hacc
    exact (termOut hs hj hlast hb).trans (congrArg Host.Outcome.next hacc)
  case termNot =>
    intro h
    refine exec_termOut_of_not_offers fun ho => ?_
    obtain ⟨hs, hi, -⟩ := offers_iff.1 ho
    exact h.elim (· hs) (· (txIdx_eq_last_iff.1 hi))
  case termOther =>
    intro j hj hb
    refine exec_termOut_of_not_offers fun ho => ?_
    obtain ⟨-, -, hd⟩ := offers_iff.1 ho
    exact hb ((txData_eq_getElem hj).symm.trans hd)

/-- Settles O41: the row is the arrival of its frame's bytes, which the FIFO takes as far as it has room. -/
theorem replyFramesArriveByteByByte : Obligations.ReplyFramesArriveByteByByte := by
  unfold Obligations.ReplyFramesArriveByteByByte
  intro s i h p hi
  have hlen : (frameBytes h p).length = p.length + 2 := by simp [frameBytes]
  rw [exec_of_replyFrame hi, ← hlen]
  refine ⟨fun hroom => congrArg Host.Outcome.next (pushBytes_of_room hroom), ?_⟩
  exact congrArg Host.Outcome.next (pushBytes_eq s (List.cons_ne_nil _ _))

/-- Settles O3: each number unpacks to a tuple whose op value picks the row. -/
theorem programWordsDecode : Obligations.ProgramWordsDecode := by
  unfold Obligations.ProgramWordsDecode
  decide

/-- Settles O11: the thirteen reserved rows have one meaning, `setBadOp`. -/
theorem reservedOpSetsOnlyBadOp : Obligations.ReservedOpSetsOnlyBadOp := by
  unfold Obligations.ReservedOpSetsOnlyBadOp
  intro i s hi
  cases i with
  | reserved00 | reserved14 | reserved18 | reserved28 | reserved38 | reserved41 | reserved42 | reserved44 | reserved48
  | reserved5B | reserved5C | reserved60 | reserved80 => rfl
  | _ => cases hi

end Sys2Proof.Machine
end

/-! # Proofs: the value codec (41_value_codec.md R141 to R163) -/

section
namespace Sys2Proof.Machine

/-! ## Digits and their places -/

section
variable (m : DigitMode)

/-- The machine's shift-and-add from the left ends in the value by place, above what it started from. -/
theorem foldl_digit_eq (p : List Byte) (acc : Nat) :
    p.foldl (fun acc b => acc * 16 + digit m b) acc = acc * 16 ^ p.length + placeValue m p := by
  induction p generalizing acc with
  | nil => simp [placeValue]
  | cons b p ih =>
    have hd : digit m b = digitValue m b := rfl
    rw [List.foldl_cons, ih, placeValue, List.length_cons, pow_succ, hd]
    ring

theorem combineNat_eq_placeValue (p : List Byte) : combineNat m p = placeValue m p := by
  have h := foldl_digit_eq m p 0
  rwa [Nat.zero_mul, Nat.zero_add] at h

/-- Up to eight digits the 37-bit result is the exact value by place (R149). -/
theorem combine_toNat_eq_placeValue {p : List Byte} (h : p.length ≤ 8) : (combine m p).toNat = placeValue m p :=
  (combine_toNat h).trans (combineNat_eq_placeValue m p)

/-- With the high nibbles masked, every digit string stays below its place (R145). -/
theorem placeValue_lowNibble_lt (p : List Byte) : placeValue .lowNibble p < 16 ^ p.length := by
  induction p with
  | nil => simp [placeValue]
  | cons b p ih =>
    have hd : digitValue .lowNibble b ≤ 15 := Nat.lt_succ_iff.1 (Nat.mod_lt _ (by norm_num))
    have hplace := Nat.mul_le_mul_right (16 ^ p.length) hd
    rw [placeValue, List.length_cons, pow_succ]
    omega

theorem digitValue_nibble (k : Nat) : digitValue m (BitVec.ofNat 8 (k % 16)) = k % 16 := by
  cases m <;> simp only [digitValue, BitVec.toNat_ofNat] <;> omega

end

/-! ## Splitting a word -/

/-- The machine's shifted and masked nibble is digit `k` of the word (R141). -/
theorem nibble_eq_digit (v : Word) (k : Nat) :
    ((v >>> (4 * k)) &&& 0xF).setWidth 8 = BitVec.ofNat 8 (v.toNat / 16 ^ k % 16) := by
  have hmask : ∀ a : Nat, a &&& 15 = a % 16 := fun a => Nat.and_two_pow_sub_one_eq_mod a 4
  have hbyte : v.toNat / 16 ^ k % 16 % 256 = v.toNat / 16 ^ k % 16 := by omega
  apply BitVec.eq_of_toNat_eq
  simp [hmask, hbyte, Nat.shiftRight_eq_div_pow, pow_mul]

theorem splitNibbles_eq (v : Word) (n : Nat) :
    splitNibbles v n = (List.range n).map fun i => BitVec.ofNat 8 (v.toNat / 16 ^ (n - 1 - i) % 16) := by
  simp only [splitNibbles, nibble_eq_digit]

@[simp] theorem splitNibbles_length (v : Word) (n : Nat) : (splitNibbles v n).length = n := by simp [splitNibbles]

theorem splitNibbles_getElem? (v : Word) {n i : Nat} (h : i < n) :
    (splitNibbles v n)[i]? = some (BitVec.ofNat 8 (v.toNat / 16 ^ (n - 1 - i) % 16)) := by
  simp [splitNibbles_eq, h]

/-- One nibble more puts the next higher digit in front. -/
theorem splitNibbles_succ (v : Word) (n : Nat) :
    splitNibbles v (n + 1) = BitVec.ofNat 8 (v.toNat / 16 ^ n % 16) :: splitNibbles v n := by
  simp [splitNibbles_eq, List.range_succ_eq_map, Function.comp_def, Nat.sub_sub, Nat.add_comm]

/-- The digits of a word, read by place in either DIGIT_MODE, are the word modulo 16^n (R148). -/
theorem placeValue_splitNibbles (m : DigitMode) (v : Word) (n : Nat) :
    placeValue m (splitNibbles v n) = v.toNat % 16 ^ n := by
  induction n with
  | zero => simp [splitNibbles, placeValue, Nat.mod_one]
  | succ n ih =>
    rw [splitNibbles_succ, placeValue, digitValue_nibble, splitNibbles_length, ih, Nat.mod_pow_succ]
    ring

/-! ## Parts of a payload -/

theorem slice_append (a f b : List Byte) : slice (a ++ f ++ b) a.length f.length = f := by simp [slice]

theorem slice_length_le (p : List Byte) (i n : Nat) : (slice p i n).length ≤ n := List.length_take_le _ _

/-- A slice of at most eight bytes combines to its exact value (R149, R151). -/
theorem combine_slice_toNat (m : DigitMode) {p f : List Byte} {i n : Nat} (hf : slice p i n = f) (hn : n ≤ 8) :
    (combine m (slice p i n)).toNat = placeValue m f := by
  rw [combine_toNat_eq_placeValue m ((slice_length_le p i n).trans hn), hf]

/-- The test of R153, as the length and the first byte. -/
theorem isReply_iff {p : List Byte} {n : Nat} : isReply p n = true ↔ n ≤ p.length ∧ p.head? = some 0x50 := by
  simp [isReply]

theorem not_isReply {p : List Byte} {n : Nat} (h : p.length < n ∨ p.head? ≠ some 0x50) : ¬ isReply p n = true := by
  rw [isReply_iff, not_and_or, not_le]
  exact h

/-! ## What each codec instruction returns -/

section
variable (s : State) (p : List Byte)

theorem returns_nibSplit (v : Word) (n : BitVec 4) : Returns s (.nibSplit v n) (nibSplitResult v n) := rfl

theorem returns_nibCombine : Returns s (.nibCombine p) (nibCombineResult s.params.digitMode p) := rfl

theorem returns_nibField (off n : BitVec 4) :
    Returns s (.nibField p off n) (nibFieldResult s.params.digitMode p off n) := rfl

theorem returns_decBool : Returns s (.decBool p) (decBoolResult p) := rfl

theorem returns_decNumreg : Returns s (.decNumreg p) (decNumregResult s.params.digitMode p) := rfl

theorem returns_decPantilt : Returns s (.decPantilt p)
    (decPantiltResult s.params.digitMode s.panNib.toNat s.tiltNib.toNat p) := rfl

theorem returns_decVersion : Returns s (.decVersion p) (decVersionResult s.params.digitMode p) := rfl

/-- A count that NIB_SPLIT takes is at most N_MAX (R150). -/
theorem returns_nibSplit_valid {v : Word} {n : BitVec 4} (h : n.toNat ≤ 8) :
    Returns s (.nibSplit v n) (.nibbles true (splitNibbles v n.toNat)) := by
  have hr : nibSplitResult v n = .nibbles true (splitNibbles v n.toNat) := if_neg (Nat.not_lt.2 h)
  exact hr ▸ returns_nibSplit s v n

theorem returns_nibCombine_valid {p : List Byte} (h : p.length ≤ 8) :
    Returns s (.nibCombine p) (.value true (combine s.params.digitMode p)) := by
  have hr : nibCombineResult s.params.digitMode p = .value true (combine s.params.digitMode p) :=
    if_neg (Nat.not_lt.2 h)
  exact hr ▸ returns_nibCombine s p

end

/-! ## The obligations -/

/-- Settles O42: the bytes are the digits of the word, one by one. -/
theorem nibSplitReturnsTheNibbles : Obligations.NibSplitReturnsTheNibbles := by
  unfold Obligations.NibSplitReturnsTheNibbles
  intro s v n
  constructor
  · intro h
    exact ⟨_, returns_nibSplit_valid s h, splitNibbles_length v _, fun i hi => splitNibbles_getElem? v hi⟩
  · intro h
    have hr : nibSplitResult v n = .nibbles false [] := if_pos h
    exact hr ▸ returns_nibSplit s v n

/-- Settles O43: shift-and-add is the value by place, and masked digits keep eight of them below 2^32. -/
theorem nibCombineReturnsThePlaceValue : Obligations.NibCombineReturnsThePlaceValue := by
  unfold Obligations.NibCombineReturnsThePlaceValue
  intro s p
  constructor
  · intro h
    have hv := combine_toNat_eq_placeValue s.params.digitMode h
    refine ⟨_, returns_nibCombine_valid s h, hv, fun hm => ?_⟩
    calc (combine s.params.digitMode p).toNat
      _ = placeValue .lowNibble p := by rw [hv, hm]
      _ < 16 ^ p.length := placeValue_lowNibble_lt p
      _ ≤ 16 ^ 8 := Nat.pow_le_pow_right (by norm_num) h
      _ = 2 ^ 32 := by norm_num
  · intro h
    have hr : nibCombineResult s.params.digitMode p = .value false 0 := if_pos h
    exact hr ▸ returns_nibCombine s p

/-- Settles O44: the split bytes are at most eight digits, so combining them reads the word modulo 16^n. -/
theorem splitThenCombineGivesTheValueBack : Obligations.SplitThenCombineGivesTheValueBack := by
  unfold Obligations.SplitThenCombineGivesTheValueBack
  intro s v n h
  have hlen : (splitNibbles v n.toNat).length ≤ 8 := (splitNibbles_length v _).trans_le h
  have hx := (combine_toNat_eq_placeValue s.params.digitMode hlen).trans (placeValue_splitNibbles _ v n.toNat)
  exact ⟨_, _, returns_nibSplit_valid s h, returns_nibCombine_valid s hlen, hx,
    fun hv => hx.trans (Nat.mod_eq_of_lt hv)⟩

/-- Settles O45: a field inside the payload is the slice between what stands before and after it. -/
theorem nibFieldReturnsTheFieldValue : Obligations.NibFieldReturnsTheFieldValue := by
  unfold Obligations.NibFieldReturnsTheFieldValue
  intro s p off n
  constructor
  · intro a f b hp ha hf hn
    have hfit : n.toNat ≤ Config.nMax ∧ off.toNat + n.toNat ≤ p.length :=
      ⟨hn, by simp only [hp, List.length_append]; omega⟩
    have hslice : slice p off.toNat n.toNat = f := by rw [hp, ← ha, ← hf, slice_append]
    have hr := returns_nibField s p off n
    rw [nibFieldResult, field, if_pos hfit] at hr
    exact ⟨_, hr, combine_slice_toNat _ hslice hn⟩
  · intro h
    have hpast : ¬ (n.toNat ≤ Config.nMax ∧ off.toNat + n.toNat ≤ p.length) := by
      rw [not_and_or, not_le, not_le]
      exact h.symm
    have hr := returns_nibField s p off n
    rwa [nibFieldResult, field, if_neg hpast] at hr

/-- Settles O46: the three outcomes of the two comparisons carry the three codes. -/
theorem decBoolMatchesTheWholePayload : Obligations.DecBoolMatchesTheWholePayload := by
  unfold Obligations.DecBoolMatchesTheWholePayload
  intro s p
  have hr := returns_decBool s p
  unfold decBoolResult at hr
  split at hr
  case isTrue h => exact ⟨_, hr, by subst h; decide⟩
  case isFalse hTrue =>
    split at hr
    case isTrue h => exact ⟨_, hr, by subst h; decide⟩
    case isFalse hFalse =>
      exact ⟨_, hr, iff_of_false (by decide) hTrue, iff_of_false (by decide) hFalse, iff_of_true rfl ⟨hTrue, hFalse⟩⟩

/-- Settles O47: the slice at 3 is the bytes `x` and `y`, whose value by place is written out. -/
theorem decNumregReadsBytesThreeAndFour : Obligations.DecNumregReadsBytesThreeAndFour := by
  unfold Obligations.DecNumregReadsBytesThreeAndFour
  intro s p
  have hr := returns_decNumreg s p
  unfold decNumregResult at hr
  constructor
  · rintro a b x y rest rfl
    rw [if_pos (isReply_iff.2 ⟨by simp, rfl⟩)] at hr
    refine ⟨_, hr, (combine_slice_toNat _ (f := [x, y]) rfl (by norm_num)).trans ?_⟩
    simp [placeValue]
  · intro h
    rwa [if_neg (not_isReply h)] at hr

/-- Settles O48: after the first byte the payload is the pan field, the tilt field and what follows. -/
theorem decPantiltReadsThePositions : Obligations.DecPantiltReadsThePositions := by
  unfold Obligations.DecPantiltReadsThePositions
  intro s p hpn htn
  have hr := returns_decPantilt s p
  unfold decPantiltResult at hr
  constructor
  · intro a b rest hp ha hb
    have hlen : 1 + s.panNib.toNat + s.tiltNib.toNat ≤ p.length := by
      simp only [hp, List.length_cons, List.length_append]; omega
    have hpan : slice p 1 s.panNib.toNat = a := by
      simpa [hp, ha] using slice_append [0x50] a (b ++ rest)
    have htilt : slice p (s.panNib.toNat + 1) s.tiltNib.toNat = b := by
      simpa [hp, ha, hb] using slice_append (0x50 :: a) b rest
    rw [if_pos (isReply_iff.2 ⟨hlen, by rw [hp]; rfl⟩)] at hr
    exact ⟨_, _, hr, combine_slice_toNat _ hpan hpn, combine_slice_toNat _ htilt htn⟩
  · intro h
    rwa [if_neg (not_isReply h)] at hr

/-- Settles O49: the slices at 1, 3 and 5 are the three pairs, and byte 7 is returned as it is. -/
theorem decVersionReadsItsFields : Obligations.DecVersionReadsItsFields := by
  unfold Obligations.DecVersionReadsItsFields
  intro s p
  have hr := returns_decVersion s p
  unfold decVersionResult at hr
  constructor
  · rintro v1 v2 m1 m2 r1 r2 k rest rfl
    rw [if_pos (isReply_iff.2 ⟨by simp, rfl⟩)] at hr
    have h2 : 2 ≤ 8 := by norm_num
    exact ⟨_, _, _, hr, combine_slice_toNat _ rfl h2, combine_slice_toNat _ rfl h2, combine_slice_toNat _ rfl h2⟩
  · intro h
    rwa [if_neg (not_isReply h)] at hr

end Sys2Proof.Machine
end

/-! # Proofs: the frame codec and its two deframers (42_frame_codec.md R180 to R196) -/

section
namespace Sys2Proof.Machine

/-! ## Headers -/

theorem addrEnc_toNat (a : DevAddr) : (addrEnc a).toNat = 0x80 + a.toNat := by decide +revert

theorem addrEnc_eq_or (a : DevAddr) : addrEnc a = 0x80#8 ||| a.setWidth 8 := by decide +revert

/-- Bit 7 of a byte says whether it is at least 0x80. -/
theorem getLsbD_seven (h : Byte) : h.getLsbD 7 = decide (0x80 ≤ h.toNat) :=
  (BitVec.msb_eq_getLsbD_last h).symm.trans (BitVec.msb_eq_decide h)

theorem addrDecode_of_low {h : Byte} (hl : h.toNat < 0x80) : addrDecode h = (false, 0) := by
  rw [addrDecode, getLsbD_seven, decide_eq_false (Nat.not_le.2 hl), if_neg Bool.false_ne_true]

/-- From 0x80 on, bits [6:4] are the sixteenths above 0x80 (R182). -/
theorem addrDecode_of_high {h : Byte} (hh : 0x80 ≤ h.toNat) :
    addrDecode h = (true, BitVec.ofNat 3 ((h.toNat - 0x80) / 16)) := by
  have haddr : h.extractLsb' 4 3 = BitVec.ofNat 3 ((h.toNat - 0x80) / 16) := by
    apply BitVec.eq_of_toNat_eq
    rw [BitVec.extractLsb'_toNat, BitVec.toNat_ofNat, Nat.shiftRight_eq_div_pow]
    omega
  rw [addrDecode, getLsbD_seven, decide_eq_true hh, if_pos rfl, haddr]

theorem addrDecode_replyHeader (a : DevAddr) : addrDecode (BitVec.ofNat 8 (0x80 + a.toNat * 16)) = (true, a) := by
  decide +revert

theorem addrDecode_outHeader (a : DevAddr) : addrDecode (BitVec.ofNat 8 (0x80 + a.toNat)) = (true, 0) := by
  decide +revert

/-! ## Chunks, run by run -/

/-- A chunk is a run without 0xFF, or such a run, 0xFF, and a further chunk (R186). -/
theorem chunk_induction {motive : List Byte → Prop} (tail : ∀ x, terminator ∉ x → motive x)
    (run : ∀ x rest, terminator ∉ x → motive rest → motive (x ++ terminator :: rest)) (c : List Byte) : motive c := by
  by_cases hc : terminator ∈ c
  case neg => exact tail c hc
  case pos =>
    obtain ⟨x, rest, he, hx⟩ := List.eq_append_cons_of_mem hc
    have hlt : rest.length < c.length := by rw [he, List.length_append, List.length_cons]; omega
    exact he ▸ run x rest hx (chunk_induction tail run rest)
termination_by c.length

/-! ## Fragments -/

theorem fragments_of_clean {x : List Byte} (h : terminator ∉ x) : fragments x = [x] := fragmentsFrom_tail h

theorem fragments_run {x : List Byte} (h : terminator ∉ x) (rest : List Byte) :
    fragments (x ++ terminator :: rest) = x :: fragments rest := fragmentsFrom_run h rest

theorem splitFrames_run {x : List Byte} (h : terminator ∉ x) (rest : List Byte) :
    splitFrames (x ++ terminator :: rest) = (keepFragment x).toList ++ splitFrames rest := by
  rw [splitFrames, fragments_run h, List.filterMap_cons]
  cases keepFragment x <;> rfl

theorem hasOversize_run {x : List Byte} (h : terminator ∉ x) (rest : List Byte) :
    hasOversize (x ++ terminator :: rest) = (decide (15 < x.length) || hasOversize rest) := by
  rw [hasOversize, fragments_run h, List.any_cons]
  rfl

theorem fragments_ne_nil (c : List Byte) : fragments c ≠ [] := by
  induction c using chunk_induction with
  | tail x hx => simp [fragments_of_clean hx]
  | run x rest hx _ => simp [fragments_run hx]

/-- The fragments of a chunk, joined by 0xFF, are the chunk. -/
theorem intercalate_fragments (c : List Byte) : ([terminator] : List Byte).intercalate (fragments c) = c := by
  induction c using chunk_induction with
  | tail x hx => rw [fragments_of_clean hx, List.intercalate_singleton]
  | run x rest hx ih =>
    rw [fragments_run hx, List.intercalate_cons_of_ne_nil (fragments_ne_nil rest), ih]
    simp

/-- Lists without 0xFF, joined by 0xFF, are the fragments of what they make. -/
theorem fragments_intercalate {fs : List (List Byte)} (hne : fs ≠ []) (hc : ∀ f ∈ fs, terminator ∉ f) :
    fragments (([terminator] : List Byte).intercalate fs) = fs := by
  induction fs with
  | nil => exact absurd rfl hne
  | cons f fs ih =>
    obtain ⟨hf, hfs⟩ := List.forall_mem_cons.1 hc
    by_cases hnil : fs = []
    · rw [hnil, List.intercalate_singleton, fragments_of_clean hf]
    · rw [List.intercalate_cons_of_ne_nil hnil, List.append_assoc, List.singleton_append, fragments_run hf, ih hnil hfs]

theorem length_le_of_mem_fragments (c : List Byte) : ∀ f ∈ fragments c, f.length ≤ c.length := by
  induction c using chunk_induction with
  | tail x hx => simp [fragments_of_clean hx]
  | run x rest hx ih =>
    rw [fragments_run hx, List.length_append, List.length_cons]
    exact List.forall_mem_cons.2 ⟨by omega, fun f hf => (ih f hf).trans (by omega)⟩

/-- A fragment that can be kept takes three bytes of the chunk with its 0xFF, which the last one may lack (R190). -/
theorem three_mul_kept_le (c : List Byte) :
    3 * ((fragments c).filter fun f => decide (2 ≤ f.length)).length ≤ c.length + 1 := by
  induction c using chunk_induction with
  | tail x hx =>
    rw [fragments_of_clean hx, List.filter_cons]
    split
    case isTrue h =>
      have h2 := of_decide_eq_true h
      simp only [List.filter_nil, List.length_singleton]
      omega
    case isFalse => simp
  | run x rest hx ih =>
    rw [fragments_run hx, List.filter_cons, List.length_append, List.length_cons]
    split
    case isTrue h =>
      have h2 := of_decide_eq_true h
      rw [List.length_cons]
      omega
    case isFalse => omega

/-! ## SPLIT -/

/-- The bytes of a frame without its 0xFF. -/
def Frame.fragment (g : Frame) : List Byte := g.header :: g.payload

/-- The entry SPLIT makes of a frame (R115). -/
def Frame.entry (g : Frame) : FrameEntry :=
  { header := g.header, plen := BitVec.ofNat 4 g.payload.length, payload := g.payload }

/-- A fragment that is not oversize is kept, whole, if it has at least two bytes (R187, R188). -/
theorem map_fragment_keepFragment {f : List Byte} (hl : f.length ≤ 15) :
    (keepFragment f).map Frame.fragment = Option.guard (fun f => decide (2 ≤ f.length)) f := by
  match f with
  | [] => rfl
  | [_] => rfl
  | h :: b :: p =>
    have hfit : ¬ (b :: p).length + 1 > Config.maxFragment := Nat.not_lt.2 hl
    simp only [keepFragment, if_neg hfit, Option.guard]
    simp [Frame.fragment]

/-- A chunk too short for an oversize fragment yields its fragments of at least two bytes. -/
theorem map_fragment_splitFrames {c : List Byte} (hl : c.length ≤ 15) :
    (splitFrames c).map Frame.fragment = (fragments c).filter fun f => decide (2 ≤ f.length) := by
  rw [splitFrames, List.map_filterMap, ← List.filterMap_eq_filter]
  exact List.filterMap_congr fun f hf => map_fragment_keepFragment ((length_le_of_mem_fragments c f hf).trans hl)

theorem splitFrames_length_le {c : List Byte} (hl : c.length ≤ 15) : (splitFrames c).length ≤ 5 := by
  have h := three_mul_kept_le c
  rw [← map_fragment_splitFrames hl, List.length_map] at h
  omega

/-! ## The reassembling deframer -/

/-- What was yielded and reported before comes first. -/
def Reassembler.after (o : Bool) (fs : List Frame) (r : Reassembler) : Reassembler :=
  { r with overflow := o || r.overflow, frames := fs ++ r.frames }

/-- A byte acts the same whatever was yielded and reported before. -/
theorem reassembleByte_after (o : Bool) (fs : List Frame) (r : Reassembler) (b : Byte) :
    reassembleByte (r.after o fs) b = (reassembleByte r b).after o fs := by
  unfold reassembleByte Reassembler.after
  split_ifs <;> simp

/-- The second of two chunks starts from the buffer and the flag that the first one left (R192). -/
theorem reassembleFrames_append (frag : List Byte) (d : Bool) (c c' : List Byte) :
    reassembleFrames frag d (c ++ c') =
      (reassembleFrames (reassembleFrames frag d c).frag (reassembleFrames frag d c).discard c').after
        (reassembleFrames frag d c).overflow (reassembleFrames frag d c).frames := by
  set first := reassembleFrames frag d c with hfirst
  have hstart : first = ({ frag := first.frag, discard := first.discard, overflow := false, frames := [] } :
      Reassembler).after first.overflow first.frames := by
    simp [Reassembler.after]
  calc reassembleFrames frag d (c ++ c')
    _ = c'.foldl reassembleByte first := List.foldl_append
    _ = c'.foldl reassembleByte (Reassembler.after _ _ _) := congrArg (c'.foldl reassembleByte) hstart
    _ = _ := List.foldl_hom _ (reassembleByte_after _ _)

section
variable {frag x : List Byte}

/-- Bytes without 0xFF that fit stay in the buffer (R192, R194). -/
theorem reassembleFrames_of_fits (hx : terminator ∉ x) (hl : frag.length + x.length ≤ 15) :
    reassembleFrames frag false x = { frag := frag ++ x, discard := false, overflow := false, frames := [] } :=
  foldl_reassembleByte_run hx _ rfl hl

/-- More bytes without 0xFF than fit: the fragment is being dropped, and that is reported (R193). -/
theorem reassembleFrames_of_oversize (hx : terminator ∉ x) (hf : frag.length ≤ 15)
    (hl : 15 < frag.length + x.length) :
    reassembleFrames frag false x = { frag := [], discard := true, overflow := true, frames := [] } :=
  foldl_reassembleByte_oversize hx _ rfl hf hl

/-- While a fragment is being dropped, bytes without 0xFF are skipped (R192). -/
theorem reassembleFrames_of_dropping (hx : terminator ∉ x) :
    reassembleFrames frag true x = { frag := frag, discard := true, overflow := false, frames := [] } :=
  foldl_reassembleByte_dropping hx _ rfl

/-- The 0xFF after a fragment that fits yields it, if it is one to keep (R187, R188, R192). -/
theorem reassembleFrames_run_of_fits (hx : terminator ∉ x) (hl : frag.length + x.length ≤ 15) (rest : List Byte) :
    reassembleFrames frag false (x ++ terminator :: rest) =
      (reassembleFrames [] false rest).after false (keepFragment (frag ++ x)).toList := by
  have hrun : reassembleFrames frag false (x ++ [terminator]) =
      { frag := [], discard := false, overflow := false, frames := (keepFragment (frag ++ x)).toList } := by
    rw [reassembleFrames_append, reassembleFrames_of_fits hx hl]
    simp [reassembleFrames, reassembleByte, Reassembler.after]
  rw [← List.singleton_append, ← List.append_assoc, reassembleFrames_append, hrun]

/-- The 0xFF of an oversize fragment ends the dropping and yields nothing (R192, R193). -/
theorem reassembleFrames_run_of_oversize (hx : terminator ∉ x) (hf : frag.length ≤ 15)
    (hl : 15 < frag.length + x.length) (rest : List Byte) :
    reassembleFrames frag false (x ++ terminator :: rest) = (reassembleFrames [] false rest).after true [] := by
  have hrun : reassembleFrames frag false (x ++ [terminator]) =
      { frag := [], discard := false, overflow := true, frames := [] } := by
    rw [reassembleFrames_append, reassembleFrames_of_oversize hx hf hl]
    rfl
  rw [← List.singleton_append, ← List.append_assoc, reassembleFrames_append, hrun]

/-- The 0xFF of a fragment being dropped ends the dropping (R192). -/
theorem reassembleFrames_end_of_dropping (hx : terminator ∉ x) :
    reassembleFrames frag true (x ++ [terminator]) =
      { frag := frag, discard := false, overflow := false, frames := [] } := by
  rw [reassembleFrames_append, reassembleFrames_of_dropping hx]
  rfl

end

/-- An oversize fragment gives no frame (R189). -/
theorem keepFragment_of_oversize {x : List Byte} (h : 15 < x.length) : keepFragment x = none := by
  refine Option.eq_none_iff_forall_ne_some.2 fun g hg => ?_
  obtain ⟨he, -, hl⟩ := keepFragment_some hg
  rw [he, List.length_cons] at h
  omega

/-- A chunk is whole: it is empty or ends with 0xFF (R195). -/
def WholeChunk (c : List Byte) : Prop := c = [] ∨ c.getLast? = some terminator

theorem WholeChunk.eq_nil_of_clean {x : List Byte} (h : WholeChunk x) (hx : terminator ∉ x) : x = [] :=
  h.resolve_right fun hlast => hx (List.mem_of_getLast? hlast)

theorem WholeChunk.of_run {x rest : List Byte} (h : WholeChunk (x ++ terminator :: rest)) : WholeChunk rest := by
  obtain h | h := h
  · simp at h
  · by_cases hnil : rest = []
    · exact .inl hnil
    · exact .inr (by rwa [List.getLast?_append_cons, List.getLast?_cons_of_ne_nil hnil] at h)

/-- On a whole chunk, from an empty buffer, the reassembling deframer yields and reports what the stateless one does and
carries nothing (R195). -/
theorem reassembleFrames_of_wholeChunk {c : List Byte} (hc : WholeChunk c) :
    reassembleFrames [] false c =
      { frag := [], discard := false, overflow := hasOversize c, frames := splitFrames c } := by
  induction c using chunk_induction with
  | tail x hx =>
    obtain rfl := hc.eq_nil_of_clean hx
    decide
  | run x rest hx ih =>
    rw [splitFrames_run hx, hasOversize_run hx]
    by_cases hl : x.length ≤ 15
    · rw [reassembleFrames_run_of_fits hx (by simpa using hl), ih hc.of_run, decide_eq_false (Nat.not_lt.2 hl)]
      rfl
    · have hover : 15 < x.length := Nat.lt_of_not_le hl
      rw [reassembleFrames_run_of_oversize hx (by simp) (by simpa using hover), ih hc.of_run, decide_eq_true hover,
        keepFragment_of_oversize hover]
      rfl

/-! ## What each frame codec instruction returns -/

section
variable (s : State)

theorem returns_frameEnc (a : DevAddr) (d : List Byte) :
    Returns s (.frameEnc a d) (.frame (addrEnc a :: d) (BitVec.ofNat 5 (d.length + 1))) := rfl

theorem returns_addrDec (h : Byte) : Returns s (.addrDec h) (.address (addrDecode h).1 (addrDecode h).2) := rfl

theorem returns_addrDec_of {h : Byte} {v : Bool} {a : DevAddr} (he : addrDecode h = (v, a)) :
    Returns s (.addrDec h) (.address v a) := by
  have hr := returns_addrDec s h
  rwa [he] at hr

theorem returns_split (c : List Byte) :
    Returns s (.split c) (.frames (BitVec.ofNat 3 (splitFrames c).length) ((splitFrames c).map Frame.entry)) := rfl

end

/-! ## The obligations -/

/-- Settles O50: the header is 0x80 plus the address, and a template of up to 15 bytes leaves the length in range. -/
theorem frameEncPrependsTheAddress : Obligations.FrameEncPrependsTheAddress := by
  unfold Obligations.FrameEncPrependsTheAddress
  intro s a d hl
  refine ⟨_, _, returns_frameEnc s a d, ?_, addrEnc_toNat a, addrEnc_eq_or a⟩
  rw [BitVec.toNat_ofNat]
  omega

/-- Settles O51: bit 7 decides between the two answers, and the two headers of R184 are decoded. -/
theorem addrDecReadsTheSender : Obligations.AddrDecReadsTheSender := by
  unfold Obligations.AddrDecReadsTheSender
  refine ⟨fun s h => ⟨fun hh => ?high, fun hl => ?low⟩, fun s a _ => ⟨?reply, ?outbound⟩⟩
  case high => exact returns_addrDec_of s (addrDecode_of_high hh)
  case low => exact returns_addrDec_of s (addrDecode_of_low hl)
  case reply => exact returns_addrDec_of s (addrDecode_replyHeader a)
  case outbound => exact returns_addrDec_of s (addrDecode_outHeader a)

/-- Settles O52: joining and fragmenting are inverse, and each fragment of at least two bytes takes three of the
chunk. -/
theorem splitKeepsItsFragments : Obligations.SplitKeepsItsFragments := by
  unfold Obligations.SplitKeepsItsFragments
  constructor
  · intro s fs hne hc hl
    have hfrags := map_fragment_splitFrames hl
    rw [fragments_intercalate hne hc] at hfrags
    have hfive := splitFrames_length_le hl
    refine ⟨_, _, returns_split s _, ?count, by rwa [List.length_map], ?fragments, List.forall_mem_map.2 fun g hg => ?_⟩
    case count =>
      rw [BitVec.toNat_ofNat, List.length_map]
      omega
    case fragments => rw [List.map_map, ← hfrags]; rfl
    obtain ⟨h1, h14, -⟩ := splitFrames_frame hg
    refine ⟨?_, h1, h14⟩
    exact (BitVec.toNat_ofNat ..).trans (Nat.mod_eq_of_lt (by omega))
  · intro c
    exact ⟨fragments c, fragments_ne_nil c, fragmentsFrom_clean (by simp) c, intercalate_fragments c⟩

/-- Settles O54: by induction over the runs of the chunk, each ended by its 0xFF. -/
theorem reassemblyAgreesOnWholeChunks : Obligations.ReassemblyAgreesOnWholeChunks := by
  unfold Obligations.ReassemblyAgreesOnWholeChunks
  intro c hc
  rw [reassembleFrames_of_wholeChunk hc]
  exact ⟨rfl, rfl, rfl, rfl⟩

end Sys2Proof.Machine
end

/-! # Proofs: polls through the deframers (42_frame_codec.md R183, R192 to R194; 45_transaction_engine.md R296) -/

section
namespace Sys2Proof.Machine

section
variable {i : Instr} {s b : State}

/-! ## The state a poll starts from -/

/-- Up to its poll, a polling event leaves the receive side, the latches and the build parameters alone. -/
theorem PollEvent.keeps (h : PollEvent i s b) :
    SameRx s b ∧ SameLatches s b ∧ b.params = s.params ∧ b.frameOvf = s.frameOvf := by
  obtain ⟨-, -, rfl⟩ | ⟨-, -, -, -, rfl⟩ | ⟨-, -, -, -, -, j, -, rfl⟩ := h <;>
    exact ⟨⟨rfl, rfl, rfl⟩, ⟨rfl, rfl, rfl, rfl, rfl⟩, rfl, rfl⟩

/-- Whether an event polls does not depend on the FIFO. -/
theorem PollEvent.withFifo (h : PollEvent i s b) (c : List Byte) :
    PollEvent i { s with rxFifo := c } { b with rxFifo := c } := by
  obtain ⟨hi, hd, rfl⟩ | ⟨hi, hs, hl, hk, rfl⟩ | ⟨hi, hs, hx, hl, hk, j, hj, rfl⟩ := h
  · exact .inl ⟨hi, hd, rfl⟩
  · exact .inr (.inl ⟨hi, hs, hl, hk, rfl⟩)
  · exact .inr (.inr ⟨hi, hs, hx, hl, hk, j, hj, rfl⟩)

/-! ## Whole frames -/

/-- Before its terminator a whole frame holds no 0xFF (R107, R196). -/
theorem wholeFrame_clean {h : Byte} {p : List Byte} (hw : WholeFrame h p) : terminator ∉ h :: p :=
  List.not_mem_cons_of_ne_of_not_mem (Ne.symm hw.1) hw.2.1

/-- A frame of another device neither resolves the wait nor is reported (R311). -/
theorem ignores_of_foreign {f : Byte × List Byte} (hw : WholeFrame f.1 f.2) (ha : ¬ FromDevice s.latAddr f.1) :
    s.ignores f :=
  ⟨⟨hw, fun h => absurd h ha⟩, fun h => ha h.1⟩

/-! ## A poll with REASSEMBLY on -/

/-- With REASSEMBLY on, the deframer runs the FIFO through the fragment buffer (R192). -/
theorem deframe_of_on (h : s.params.reassembly = .on) {r : Reassembler}
    (hr : reassembleFrames s.frag s.fragDiscard s.rxFifo = r) :
    s.deframe = (r.frames, { s with
      rxFifo := [], frag := r.frag, fragDiscard := r.discard, frameOvf := s.frameOvf || r.overflow }) := by
  subst hr
  simp only [State.deframe, h, State.noteFrameOvf]

/-- A poll leaves the receive side and FRAME_OVF as the deframer leaves them, whatever its frames do (R296). -/
theorem pollAndGate_keeps_deframed (s : State) :
    SameRx s.deframe.2 s.pollAndGate ∧ s.pollAndGate.frameOvf = s.deframe.2.frameOvf := by
  obtain ⟨ds, -, ⟨h, -⟩ | ⟨h, -⟩ | ⟨f, -, -, -, h⟩⟩ := pollAndGate_cases s <;>
    rw [h] <;> exact ⟨⟨rfl, rfl, rfl⟩, rfl⟩

section
variable {d : Bool} {c : List Byte} (h : PollEvent i s b) (hon : s.params.reassembly = .on) (hd : s.fragDiscard = d)
  (hc : s.rxFifo = c)
include h hon hd hc

/-- The deframer that a polling event runs, seen from the state before the event. -/
theorem deframe_of_pollEvent {r : Reassembler} (hr : reassembleFrames s.frag d c = r) :
    b.deframe = (r.frames, { b with
      rxFifo := [], frag := r.frag, fragDiscard := r.discard, frameOvf := s.frameOvf || r.overflow }) := by
  obtain ⟨⟨hrx, hfrag, hdisc⟩, -, hparams, hovf⟩ := h.keeps
  rw [deframe_of_on (hparams ▸ hon) (r := r) (by rwa [hfrag, hdisc, hrx, hd, hc]), hovf]

/-- A poll that completes no frame moves the buffer and the flags on, and the gate acts (R193, R194, R298). -/
theorem exec_poll_of_noFrames {frag : List Byte} {d' o : Bool}
    (hr : reassembleFrames s.frag d c = { frag := frag, discard := d', overflow := o, frames := [] }) :
    exec i s = .next ({ b with rxFifo := [], frag := frag, fragDiscard := d', frameOvf := s.frameOvf || o } :
      State).afterGate := by
  rw [exec_of_pollEvent h, pollAndGate_of_noFrames (deframe_of_pollEvent h hon hd hc hr) rfl rfl]

/-- A qualifying frame at the head of what a poll yields resolves the wait, with no report before it (R296, R297). -/
theorem exec_poll_of_firstFrame {r : Reassembler} {hdr : Byte} {p : List Byte} {gs : List Frame}
    (hr : reassembleFrames s.frag d c = r) (hfirst : r.frames = ⟨hdr, p⟩ :: gs)
    (hw : WholeFrame hdr p) (ha : FromDevice s.latAddr hdr) (he : EndsWait s.latKind (classify p)) :
    ∃ u, exec i s = .next u ∧ u.fsm = .done ∧ ResolvedRecord u.rsp (classify p) s.latAddr p ∧
      u.outputs = b.outputs ++ [.response u.rsp] := by
  obtain ⟨-, ⟨hkind, haddr, -⟩, -⟩ := h.keeps
  have hframes : b.deframe.1 = ([] : List (Byte × List Byte)).map (fun f => ⟨f.1, f.2⟩) ++ ⟨hdr, p⟩ :: gs := by
    rw [deframe_of_pollEvent h hon hd hc hr]
    exact hfirst
  obtain ⟨ds, hds, hpoll⟩ := pollAndGate_resolves hframes (by simp)
    (haddr ▸ (fromDevice_iff_addressedTo _ _).1 ha) (hkind ▸ (endsWait_iff_resolves _ _).1 he)
  cases hds
  rw [ha.2, List.append_nil] at hpoll
  exact ⟨_, exec_of_pollEvent h, by rw [hpoll, State.finish_fsm],
    by rw [hpoll]; exact mkRsp_resolved hw.2.2.2, by rw [hpoll]; rfl⟩

end

end

/-! ## The obligations -/

/-- Settles O32: foreign frames are ignored, so the poll acts as its gate alone, as it does on an empty FIFO. -/
theorem foreignFramesLeaveNoTrace : Obligations.ForeignFramesLeaveNoTrace := by
  unfold Obligations.ForeignFramesLeaveNoTrace
  intro i s b fs h hf hfs hx
  obtain ⟨⟨hrx, hfrag, hdisc⟩, ⟨-, haddr, -⟩, -⟩ := h.keeps
  have hforeign : b.nothingToReport :=
    .inr ⟨⟨hfrag.trans hf.1, hdisc.trans hf.2⟩, fs,
      fun f hm => ignores_of_foreign (hfs f hm).1 (haddr ▸ (hfs f hm).2), hrx.trans hx⟩
  have hempty : ({ b with rxFifo := [] } : State).nothingToReport := .inl rfl
  refine ⟨?_, _, exec_of_pollEvent h⟩
  rw [exec_of_pollEvent h, exec_of_pollEvent (h.withFifo []), pollAndGate_of_nothingToReport hforeign,
    pollAndGate_of_nothingToReport hempty]

/-- Settles O55: the deframer is a fold over the bytes, and each clause is what that fold does to the FIFO. -/
theorem reassemblyIgnoresChunkBoundaries : Obligations.ReassemblyIgnoresChunkBoundaries := by
  unfold Obligations.ReassemblyIgnoresChunkBoundaries
  refine ⟨fun frag d c c' => ?chunks, fun i s b h hon => ?polls⟩
  case chunks =>
    rw [reassembleFrames_append]
    exact ⟨rfl, rfl, rfl, rfl⟩
  case polls =>
    obtain ⟨⟨-, hfrag, hdisc⟩, -, -, hovf⟩ := h.keeps
    refine ⟨?drain, ?completed, ?fits, ?oversize, ?dropping, ?endOfDropping⟩
    case drain =>
      obtain ⟨⟨hrx', hfrag', hdisc'⟩, hovf'⟩ := pollAndGate_keeps_deframed b
      rw [deframe_of_pollEvent h hon rfl rfl rfl] at hrx' hfrag' hdisc' hovf'
      exact ⟨_, exec_of_pollEvent h, hrx', hfrag', hdisc', hovf'⟩
    case completed =>
      intro hdr p x rest k hd hcat hx hw ha hk he
      obtain rfl := (hasKind_iff_classify p k).1 hk
      have hclean : terminator ∉ x := fun hm => wholeFrame_clean hw (hcat ▸ List.mem_append_right _ hm)
      have hlen : s.frag.length + x.length ≤ 15 := by
        rw [← List.length_append, hcat, List.length_cons]
        exact Nat.succ_le_succ hw.2.2.2
      have hrun := reassembleFrames_run_of_fits hclean hlen rest
      rw [hcat, keepFragment_wholeFrame hw] at hrun
      exact exec_poll_of_firstFrame h hon hd hx hrun rfl hw ha he
    case fits =>
      intro x hd hx hl hc
      have hbd := hdisc.trans hd
      rw [exec_poll_of_noFrames h hon hd hc (reassembleFrames_of_fits hx hl), Bool.or_false, ← hovf, ← hbd]
    case oversize =>
      intro x hd hx hf hl hc
      rw [exec_poll_of_noFrames h hon hd hc (reassembleFrames_of_oversize hx hf hl), Bool.or_true]
    case dropping =>
      intro x hd hx hc
      have hbd := hdisc.trans hd
      rw [exec_poll_of_noFrames h hon hd hc (reassembleFrames_of_dropping hx), Bool.or_false, ← hovf, ← hfrag, ← hbd]
    case endOfDropping =>
      intro x hd hx hc
      rw [exec_poll_of_noFrames h hon hd hc (reassembleFrames_end_of_dropping hx), Bool.or_false, ← hovf, ← hfrag]

end Sys2Proof.Machine
end

/-! # Proofs: the command catalog (43_command_catalog.md R222 to R236; 45_transaction_engine.md R283) -/

section
namespace Sys2Proof.Machine

section
variable {s : State} {i : Instr} {k : ReqKind} {t : List Byte}

/-! ## Acceptance of a request -/

theorem exec_requestInstr (k : ReqKind) (t : List Byte) (s : State) :
    exec (requestInstr ⟨k, t⟩) s = .next (s.request k t) := by
  cases k <;> rfl

theorem requestInstr_injective : Function.Injective requestInstr := by
  rintro ⟨k, t⟩ ⟨k', t'⟩ h
  cases k <;> cases k' <;> cases h <;> rfl

theorem validTemplate.length_le (h : validTemplate t) : t.length ≤ 15 := by
  obtain ⟨b, rfl, hb, -⟩ := h
  simpa using Nat.succ_le_succ hb

theorem request_of_valid (hs : s.fsm = .idle) (hv : validate k t = .none) : s.request k t = s.accept k t :=
  (if_pos hs).trans (if_pos hv)

theorem accept_txLen_toNat (hl : t.length ≤ 15) : (s.accept k t).txLen.toNat = t.length + 1 := by
  rw [State.accept_txLen, BitVec.toNat_ofNat]
  omega

/-- After acceptance `txbuf[0 .. tx_len-1]` is the encoded frame (R283). -/
theorem accept_txFrame (hl : t.length ≤ 15) : (s.accept k t).txFrame = encodeFrame s.targetAddr t := by
  unfold State.txFrame
  rw [accept_txLen_toNat hl]
  exact overlay_take (f := encodeFrame s.targetAddr t) (Nat.succ_le_succ hl)

/-- An instruction that runs as a valid REQ sends its template when it comes in IDLE (R283). -/
theorem sendsTemplate_of_request (hs : s.fsm = .idle) (hv : validate k t = .none)
    (hi : exec i s = .next (s.request k t)) : SendsTemplate s i k t := by
  have hl : t.length ≤ 15 := validTemplate.length_le ((validate_eq_none_iff k t).1 hv).2
  rw [request_of_valid hs hv] at hi
  exact ⟨s.accept k t, hi, rfl, rfl, rfl, rfl, rfl, rfl, accept_txFrame hl, accept_txLen_toNat hl, rfl,
    fun j hj => overlay_above (f := encodeFrame s.targetAddr t) j hj,
    ⟨rfl, rfl, rfl⟩, ⟨rfl, rfl, rfl⟩, rfl, ⟨rfl, rfl, rfl, rfl, rfl, rfl, rfl⟩, ⟨rfl, rfl, rfl⟩, ⟨rfl, rfl, rfl⟩, rfl⟩

/-! ## Operand ranges -/

theorem rawByteOk_iff {d : Byte} : rawByteOk d = true ↔ d ≠ 0xFF := by
  decide +revert

theorem wf_cmdZoomIn {x : Byte} : (Instr.cmdZoomIn x).wf = true ↔ x.toNat ≤ 7 :=
  decide_eq_true_iff

theorem wf_cmdMove {v1 v2 d1 d2 : Byte} : (Instr.cmdMove v1 v2 d1 d2).wf = true ↔
    v1.toNat ≤ 0x18 ∧ v2.toNat ≤ 0x18 ∧ d1 ≠ 0xFF ∧ d2 ≠ 0xFF := by
  simp [Instr.wf, panTiltSpeedOk, rawByteOk_iff, and_assoc]

theorem wf_cmdPresetRecall {x : Byte} : (Instr.cmdPresetRecall x).wf = true ↔ x ≠ 0xFF :=
  rawByteOk_iff

theorem wf_cmdPresetStore {x : Byte} : (Instr.cmdPresetStore x).wf = true ↔ x ≠ 0xFF :=
  rawByteOk_iff

/-- A catalog name with an operand outside its range is refused in every state (R236). -/
theorem exec_catalog_of_not_wf (hc : isCatalog i = true) (hw : ¬ i.wf = true) :
    exec i s = .refused .operandOutOfRange := by
  cases i with
  | cmdZoomIn | cmdMove | cmdPresetRecall | cmdPresetStore => exact if_neg hw
  | cmdPowerOn | cmdPowerOff | cmdZoomStop | cmdMoveStop | cmdHome | cmdPtReset | inqPower | inqPantiltPos | inqVersion
  | inqRedGain => exact absurd rfl hw
  | _ => cases hc

theorem exec_cmdZoomIn_refused {x : Byte} (h : 7 < x.toNat) : exec (.cmdZoomIn x) s = .refused .operandOutOfRange :=
  exec_catalog_of_not_wf rfl fun hw => Nat.not_le_of_lt h (wf_cmdZoomIn.1 hw)

theorem exec_cmdMove_refused {v1 v2 d1 d2 : Byte} (h : 0x18 < v1.toNat ∨ 0x18 < v2.toNat ∨ d1 = 0xFF ∨ d2 = 0xFF) :
    exec (.cmdMove v1 v2 d1 d2) s = .refused .operandOutOfRange := by
  refine exec_catalog_of_not_wf rfl fun hw => ?_
  obtain ⟨hv1, hv2, hd1, hd2⟩ := wf_cmdMove.1 hw
  exact h.elim (Nat.not_lt_of_le hv1) (·.elim (Nat.not_lt_of_le hv2) (·.elim hd1 hd2))

/-! ## Templates -/

/-- Without carries, the constant 2 over the speed is their sum (R224). -/
theorem zoomInTemplate_eq {x : Byte} (h : x.toNat ≤ 7) : zoomInTemplate x = [0x01, 0x04, 0x07, 0x20 + x, 0xFF] := by
  have hor : 0x20 ||| x = 0x20 + x := by decide +revert
  rw [zoomInTemplate, hor]

theorem ne_terminator_of_speed {v : Byte} (h : v.toNat ≤ 0x18) : v ≠ 0xFF := by
  rintro rfl
  exact absurd h (by decide)

/-- Bytes without a terminator, closed by one, pass the check (R112, R282). -/
theorem validate_eq_none (b : List Byte) (hk : k ≠ .reserved3) (hl : b.length ≤ 14) (hb : ∀ x ∈ b, x ≠ 0xFF) :
    validate k (b ++ [terminator]) = .none :=
  (validate_eq_none_iff k _).2 ⟨hk, b, rfl, hl, fun hm => hb _ hm rfl⟩

theorem validate_zoomInTemplate {x : Byte} (h : x.toNat ≤ 7) : validate .cmd (zoomInTemplate x) = .none := by
  have hx : 0x20 ||| x ≠ 0xFF := by decide +revert
  exact validate_eq_none [0x01, 0x04, 0x07, 0x20 ||| x] nofun (by simp) (by simpa using hx)

theorem validate_moveTemplate {v1 v2 d1 d2 : Byte} (hv1 : v1.toNat ≤ 0x18) (hv2 : v2.toNat ≤ 0x18) (hd1 : d1 ≠ 0xFF)
    (hd2 : d2 ≠ 0xFF) : validate .cmd (moveTemplate v1 v2 d1 d2) = .none :=
  validate_eq_none [0x01, 0x06, 0x01, v1, v2, d1, d2] nofun (by simp)
    (by simpa using ⟨ne_terminator_of_speed hv1, ne_terminator_of_speed hv2, hd1, hd2⟩)

theorem validate_presetRecallTemplate {x : Byte} (h : x ≠ 0xFF) : validate .cmd (presetRecallTemplate x) = .none :=
  validate_eq_none [0x01, 0x04, 0x3F, 0x02, x] nofun (by simp) (by simpa using h)

theorem validate_presetStoreTemplate {x : Byte} (h : x ≠ 0xFF) : validate .cmd (presetStoreTemplate x) = .none :=
  validate_eq_none [0x01, 0x04, 0x3F, 0x01, x] nofun (by simp) (by simpa using h)

/-! ## The REQ of a catalog name -/

/-- `i` stands for one REQ that passes the check, with a template of 4 to 8 bytes (R117, R236). -/
def StandsForShortRequest (i : Instr) : Prop :=
  ∃ k t, expand i = [requestInstr ⟨k, t⟩] ∧ validate k t = .none ∧ 4 ≤ t.length ∧ t.length ≤ 8

/-- Each row of the catalog, at every admitted operand (R222 to R236). -/
theorem standsForShortRequest_of_catalog (hc : isCatalog i = true) (hw : i.wf = true) : StandsForShortRequest i := by
  cases i with
  | cmdPowerOn | cmdPowerOff | cmdZoomStop | cmdMoveStop | cmdHome | cmdPtReset =>
    exact ⟨.cmd, _, rfl, by decide, by decide⟩
  | inqPower | inqPantiltPos | inqVersion | inqRedGain => exact ⟨.inq, _, rfl, by decide, by decide⟩
  | cmdZoomIn x => exact ⟨.cmd, _, rfl, validate_zoomInTemplate (wf_cmdZoomIn.1 hw), by simp⟩
  | cmdMove v1 v2 d1 d2 =>
    obtain ⟨hv1, hv2, hd1, hd2⟩ := wf_cmdMove.1 hw
    exact ⟨.cmd, _, rfl, validate_moveTemplate hv1 hv2 hd1 hd2, by simp⟩
  | cmdPresetRecall x =>
    exact ⟨.cmd, _, rfl, validate_presetRecallTemplate (wf_cmdPresetRecall.1 hw), by simp⟩
  | cmdPresetStore x =>
    exact ⟨.cmd, _, rfl, validate_presetStoreTemplate (wf_cmdPresetStore.1 hw), by simp⟩
  | _ => cases hc

/-- A catalog name runs as its REQ (R117). -/
theorem exec_catalog_of_expand (hc : isCatalog i = true) (hw : i.wf = true) (he : expand i = [requestInstr ⟨k, t⟩]) :
    exec i s = .next (s.request k t) := by
  have hrun : exec i s = execAll (expand i) s :=
    secondNamesRunAsTheirExpansions i s hw (fun a h => by subst h; cases hc) (fun h => by subst h; cases hc)
  rw [hrun, he, execAll_singleton, exec_requestInstr]

/-- In IDLE a catalog name with admitted operands sends the template of the REQ it stands for (R117, R283). -/
theorem sendsTemplate_of_catalog (hs : s.fsm = .idle) (hc : isCatalog i = true) (hw : i.wf = true)
    (he : expand i = [requestInstr ⟨k, t⟩]) : SendsTemplate s i k t := by
  obtain ⟨k', t', he', hv, -⟩ := standsForShortRequest_of_catalog hc hw
  obtain ⟨rfl, rfl⟩ : k' = k ∧ t' = t := by
    simpa using requestInstr_injective (List.singleton_injective (he'.symm.trans he))
  exact sendsTemplate_of_request hs hv (exec_catalog_of_expand hc hw he)

end

/-! ## The obligations -/

/-- Settles O22: an operand out of range makes the name ill-formed, hence refused; row by row the others stand for a
valid REQ of 4 to 8 bytes. -/
theorem catalogAdmitsOnlyItsRanges : Obligations.CatalogAdmitsOnlyItsRanges := by
  unfold Obligations.CatalogAdmitsOnlyItsRanges
  refine ⟨fun s => ⟨?zoom, ?move, ?presetRecall, ?presetStore⟩, ?admitted⟩
  case zoom => exact fun x => exec_cmdZoomIn_refused
  case move => exact fun v1 v2 d1 d2 => exec_cmdMove_refused
  case presetRecall => exact exec_catalog_of_not_wf rfl (by decide)
  case presetStore => exact exec_catalog_of_not_wf rfl (by decide)
  case admitted =>
    intro i hc hw
    obtain ⟨k, t, he, hv, h4, h8⟩ := standsForShortRequest_of_catalog hc hw
    obtain ⟨hk, ht⟩ := (validate_eq_none_iff k t).1 hv
    exact ⟨k, t, he, hk, h4, h8, ht⟩

/-- Settles O20: every admitted command is one valid REQ, accepted in IDLE; the rest of the operands are refused. -/
theorem catalogCommandsSendTheirTemplates : Obligations.CatalogCommandsSendTheirTemplates := by
  unfold Obligations.CatalogCommandsSendTheirTemplates
  refine ⟨fun s hs => ⟨?powerOn, ?powerOff, ?zoomIn, ?zoomStop, ?move, ?moveStop, ?home, ?ptReset, ?presetRecall,
    ?presetStore⟩, fun s => ⟨rfl, fun x => exec_cmdZoomIn_refused, fun v1 v2 d1 d2 => exec_cmdMove_refused⟩⟩
  case zoomIn =>
    intro x hx
    rw [← zoomInTemplate_eq hx]
    exact sendsTemplate_of_catalog hs rfl (wf_cmdZoomIn.2 hx) rfl
  case move =>
    exact fun v1 v2 d1 d2 hv1 hv2 hd1 hd2 =>
      sendsTemplate_of_catalog hs rfl (wf_cmdMove.2 ⟨hv1, hv2, hd1, hd2⟩) rfl
  case presetRecall => exact fun x hx => sendsTemplate_of_catalog hs rfl (wf_cmdPresetRecall.2 hx) rfl
  case presetStore => exact fun x hx => sendsTemplate_of_catalog hs rfl (wf_cmdPresetStore.2 hx) rfl
  all_goals exact sendsTemplate_of_catalog hs rfl rfl rfl

/-- Settles O21: the four inquiries are valid INQ requests, accepted in IDLE; their decoders are a table. -/
theorem catalogInquiriesSendTheirTemplates : Obligations.CatalogInquiriesSendTheirTemplates := by
  unfold Obligations.CatalogInquiriesSendTheirTemplates
  refine ⟨fun s hs => ⟨?power, ?position, ?version, ?redGain⟩, rfl, rfl, rfl, rfl⟩
  all_goals exact sendsTemplate_of_catalog hs rfl rfl rfl

end Sys2Proof.Machine
end

/-! # Proofs: the response classifier (44_response_classifier.md R260, R261, R264) -/

section
namespace Sys2Proof.Machine

/-- The length CLASSIFY returns beside the kind (R264). -/
def resultLength (p : List Byte) (k : Kind) : BitVec 4 :=
  if k = .inquiryReply then BitVec.ofNat 4 (p.length - 1) else 0

theorem resultLength_toNat {p : List Byte} (k : Kind) (hl : p.length ≤ 15) :
    (resultLength p k).toNat = if k = .inquiryReply then p.length - 1 else 0 := by
  unfold resultLength
  split
  · exact (BitVec.toNat_ofNat ..).trans (Nat.mod_eq_of_lt (by omega))
  · rfl

theorem returns_classify (s : State) (p : List Byte) :
    Returns s (.classify p) (.kind (classify p) (resultLength p (classify p))) := rfl

/-- The shapes exclude each other and leave no payload out (R261). -/
theorem exists_unique_hasKind (p : List Byte) : ∃ k, HasKind p k ∧ ∀ k', HasKind p k' → k' = k :=
  ⟨classify p, (hasKind_iff_classify p _).2 rfl, fun k' h => ((hasKind_iff_classify p k').1 h).symm⟩

/-! ## The obligation -/

/-- Settles O53: the patterns in the spec's order find the one shape the payload has, and an inquiry result of a payload
of up to 15 bytes fits the 4-bit length. -/
theorem classifyFollowsThePayloadShape : Obligations.ClassifyFollowsThePayloadShape := by
  unfold Obligations.ClassifyFollowsThePayloadShape
  refine ⟨fun s p k hk hl => ?result, exists_unique_hasKind, rfl, rfl, rfl, rfl, rfl, rfl⟩
  case result =>
    obtain rfl := (hasKind_iff_classify p k).1 hk
    exact ⟨_, returns_classify s p, resultLength_toNat _ hl⟩

end Sys2Proof.Machine
end

/-! # Proofs: register writes, requests and the response handshake (10_state.md R42, R47; 45_transaction_engine.md R281
to R288, R293, R303, R307, R316) -/

section
namespace Sys2Proof.Machine

/-! ## Fields that keep their value when an illegal one is written -/

/-- Every address but 0 is legal (R42). -/
theorem warlAddr_eq (old new : DevAddr) : warlAddr old new = if new ≠ 0 then new else old := by
  have hlegal : (Config.addrMin ≤ new.toNat ∧ new.toNat ≤ Config.addrMax) ↔ new ≠ 0 := by decide +revert
  exact if_congr hlegal rfl rfl

/-- A written GEOM field, by the number it holds (R47). -/
theorem warlNibble_of_toNat {new : BitVec 4} {n : Nat} (old : BitVec 4) (h : new.toNat = n) :
    warlNibble old new = if 1 ≤ n ∧ n ≤ 8 then BitVec.ofNat 4 n else old := by
  rw [warlNibble, ← h, BitVec.ofNat_toNat, BitVec.setWidth_eq]

theorem toNat_panField (v : Word) : (v.extractLsb' 0 4).toNat = v.toNat % 16 := by
  rw [BitVec.extractLsb'_toNat, Nat.shiftRight_zero]

theorem toNat_tiltField (v : Word) : (v.extractLsb' 4 4).toNat = v.toNat / 16 % 16 := by
  rw [BitVec.extractLsb'_toNat, Nat.shiftRight_eq_div_pow]

section
variable {s : State} {i : Instr} {k : ReqKind} {t : List Byte}

/-! ## Rejection -/

theorem validate_reserved3 : validate .reserved3 t = .reservedKind := rfl

theorem validate_badLength (hk : k ≠ .reserved3) (hl : t.length = 0 ∨ t.length > 15) : validate k t = .badLength := by
  rw [validate, if_neg hk]
  exact if_pos hl

theorem validate_noTerminator (hk : k ≠ .reserved3) (hl : 1 ≤ t.length ∧ t.length ≤ 15)
    (hlast : t.getLast? ≠ some terminator) : validate k t = .noTerminator := by
  have hfits : ¬ (t.length = 0 ∨ t.length > Config.maxTemplate) := by simp only [Config.maxTemplate]; omega
  rw [validate, if_neg hk, if_neg hfits, if_pos hlast]

theorem validate_interiorTerminator (hk : k ≠ .reserved3) (hl : 1 ≤ t.length ∧ t.length ≤ 15)
    (hlast : t.getLast? = some terminator) (hin : terminator ∈ t.dropLast) : validate k t = .interiorTerminator := by
  have hfits : ¬ (t.length = 0 ∨ t.length > Config.maxTemplate) := by simp only [Config.maxTemplate]; omega
  rw [validate, if_neg hk, if_neg hfits, if_neg (not_not.2 hlast), if_pos hin]

/-- The code of R343 tells the reasons apart. -/
theorem Reason.eq_of_code {r r' : Reason} (h : r.code = r'.code) : r = r' := by
  revert h
  cases r <;> cases r' <;> decide

/-- A request that fails a check ends in DONE at once, with the check's reason and no byte sent (R284). -/
theorem request_of_invalid {r : Reason} (hs : s.fsm = .idle) (hv : validate k t = r) (hr : r ≠ .none) :
    s.request k t = { s with
      rsp := emptyRecord .rejected s.targetAddr r
      fsm := .done
      outputs := s.outputs ++ [.response (emptyRecord .rejected s.targetAddr r)] } := by
  rw [State.request, if_pos hs, hv, if_neg hr, State.finish, mkRsp_empty]

/-! ## Requests by any name -/

theorem expand_requestInstr (k : ReqKind) (t : List Byte) : expand (requestInstr ⟨k, t⟩) = [requestInstr ⟨k, t⟩] := by
  cases k <;> rfl

/-- An instruction that is a REQ is one of the four REQ rows or a catalog name (R117). -/
theorem requestInstr_or_isCatalog (h : isRequest i = true) :
    (∃ k t, i = requestInstr ⟨k, t⟩) ∨ isCatalog i = true := by
  cases i with
  | reqCmd t => exact .inl ⟨.cmd, t, rfl⟩
  | reqCmdWait t => exact .inl ⟨.cmdWait, t, rfl⟩
  | reqInq t => exact .inl ⟨.inq, t, rfl⟩
  | reqK3 t => exact .inl ⟨.reserved3, t, rfl⟩
  | cmdPowerOn | cmdPowerOff | cmdZoomIn | cmdZoomStop | cmdMove | cmdMoveStop | cmdHome | cmdPtReset | cmdPresetRecall
  | cmdPresetStore | inqPower | inqPantiltPos | inqVersion | inqRedGain => exact .inr rfl
  | _ => cases h

/-- A well-formed REQ by any name runs as the one REQ it stands for. -/
theorem exec_of_isRequest (h : isRequest i = true) (hw : i.wf = true) :
    ∃ k t, expand i = [requestInstr ⟨k, t⟩] ∧ ∀ s : State, exec i s = .next (s.request k t) := by
  obtain ⟨k, t, rfl⟩ | hc := requestInstr_or_isCatalog h
  · exact ⟨k, t, expand_requestInstr k t, exec_requestInstr k t⟩
  · obtain ⟨k, t, he, -⟩ := standsForShortRequest_of_catalog hc hw
    exact ⟨k, t, he, fun s => exec_catalog_of_expand hc hw he⟩

end

/-! ## The obligations -/

/-- Settles O15: index by index, the written fields are what `cfgWrite` stores. -/
theorem configWritesFollowTheirFieldRules : Obligations.ConfigWritesFollowTheirFieldRules := by
  unfold Obligations.ConfigWritesFollowTheirFieldRules
  intro s v
  refine ⟨?ctrl, rfl, rfl, rfl, ?geom, ?status, rfl, rfl⟩
  case ctrl =>
    rw [← warlAddr_eq]
    rfl
  case geom =>
    rw [← warlNibble_of_toNat _ (toNat_panField v), ← warlNibble_of_toNat _ (toNat_tiltField v)]
    rfl
  case status =>
    rw [← clearSticky_eq]
    rfl

/-- Settles O16: the two cases of `takeResponse`. -/
theorem takeReturnsDoneToIdle : Obligations.TakeReturnsDoneToIdle := by
  unfold Obligations.TakeReturnsDoneToIdle
  exact fun s => ⟨fun hs => congrArg Host.Outcome.next (takeResponse_of_done hs),
    fun hs => congrArg Host.Outcome.next (takeResponse_of_ne hs)⟩

/-- Settles O17: such a request passes every check, and is accepted. -/
theorem validRequestIsAccepted : Obligations.ValidRequestIsAccepted := by
  unfold Obligations.ValidRequestIsAccepted
  exact fun s k t hs hk ht =>
    sendsTemplate_of_request hs ((validate_eq_none_iff k t).2 ⟨hk, ht⟩) (exec_requestInstr k t s)

/-- Settles O18: in each of the four cases the check that is named fails first, and its reason is the one of the code. -/
theorem invalidRequestIsRejected : Obligations.InvalidRequestIsRejected := by
  unfold Obligations.InvalidRequestIsRejected
  intro s k t r hs hfail
  suffices validate k t = r ∧ r ≠ .none by
    rw [exec_requestInstr, request_of_invalid hs this.1 this.2]
  obtain ⟨rfl, hr⟩ | ⟨hk, hl, hr⟩ | ⟨hk, h1, h15, hlast, hr⟩ | ⟨hk, h15, hlast, hin, hr⟩ := hfail
  · obtain rfl : r = .reservedKind := Reason.eq_of_code hr
    exact ⟨validate_reserved3, nofun⟩
  · obtain rfl : r = .badLength := Reason.eq_of_code hr
    exact ⟨validate_badLength hk hl, nofun⟩
  · obtain rfl : r = .noTerminator := Reason.eq_of_code hr
    exact ⟨validate_noTerminator hk ⟨h1, h15⟩ hlast, nofun⟩
  · obtain rfl : r = .interiorTerminator := Reason.eq_of_code hr
    have h1 : 1 ≤ t.length := List.length_pos_of_mem (List.mem_of_getLast? hlast)
    exact ⟨validate_interiorTerminator hk ⟨h1, h15⟩ hlast hin, nofun⟩

/-- Settles O19: by whatever name, the REQ is held. -/
theorem requestIsHeldOutsideIdle : Obligations.RequestIsHeldOutsideIdle := by
  unfold Obligations.RequestIsHeldOutsideIdle
  intro s i hs hi hw
  obtain ⟨k, t, he, hexec⟩ := exec_of_isRequest hi hw
  exact ⟨⟨k, t⟩, he, (hexec s).trans (congrArg Host.Outcome.next (if_neg hs))⟩

/-- Settles O24: before the last byte only the index and the wire move. -/
theorem txAcceptTakesTheOfferedByte : Obligations.TxAcceptTakesTheOfferedByte := by
  unfold Obligations.TxAcceptTakesTheOfferedByte
  exact fun s => ⟨fun j hs hj hne => congrArg Host.Outcome.next (txAccept_before_last hs hj hne),
    fun hs => congrArg Host.Outcome.next (txAccept_of_ne_send hs)⟩

/-- Settles O28: the three states in which no time is kept. -/
theorem tickOutsideSettleAndWaitDoesNothing : Obligations.TickOutsideSettleAndWaitDoesNothing := by
  unfold Obligations.TickOutsideSettleAndWaitDoesNothing
  exact fun s hs => congrArg Host.Outcome.next (tick_of_quiet hs)

/-- Settles O39: with room and without. -/
theorem rxByteIsAppendedOrDropped : Obligations.RxByteIsAppendedOrDropped := by
  unfold Obligations.RxByteIsAppendedOrDropped
  exact fun s b => ⟨fun hroom => congrArg Host.Outcome.next (pushByte_of_room hroom),
    fun hfull => congrArg Host.Outcome.next (pushByte_of_full hfull)⟩

end Sys2Proof.Machine
end

/-! # Proofs: what every poll does with its chunk (42_frame_codec.md R186 to R193; 45_transaction_engine.md R288 to R299,
R309 to R312) -/

section
namespace Sys2Proof.Machine

section
variable {i : Instr} {s b : State}

/-! ## The timeout gate -/

theorem toNat_pos_of_ne_zero {v : Word} (h : v ≠ 0) : 0 < v.toNat :=
  Nat.pos_of_ne_zero fun h0 => h (BitVec.eq_of_toNat_eq h0)

theorem afterGate_of_open (h : s.waitCnt.toNat < s.latTimeout.toNat) : s.afterGate = s :=
  if_neg (Nat.not_le_of_lt h)

theorem afterGate_of_reached (h : s.latTimeout.toNat ≤ s.waitCnt.toNat) :
    s.afterGate = { s with
      fsm := .done
      rsp := emptyRecord .timeout s.latAddr .none
      outputs := s.outputs ++ [.response (emptyRecord .timeout s.latAddr .none)] } :=
  if_pos h

/-- A poll of an empty FIFO is the gate alone (R298). -/
theorem pollAndGate_of_empty (h : s.rxFifo = []) : s.pollAndGate = s.afterGate :=
  pollAndGate_of_noFrames (deframe_of_empty h) rfl rfl

/-- At or after the deadline every poll ends the wait (R298). -/
theorem pollAndGate_done_of_reached (h : s.latTimeout.toNat ≤ s.waitCnt.toNat) : s.pollAndGate.fsm = .done := by
  obtain ⟨ds, -, ⟨-, hopen⟩ | ⟨he, -⟩ | ⟨f, -, -, -, he⟩⟩ := pollAndGate_cases s
  · exact absurd h hopen
  · rw [he, State.finish_fsm]
  · rw [he, State.finish_fsm]

/-- A poll leaves the sequencer where it is or ends in DONE. -/
theorem pollAndGate_fsm (s : State) : s.pollAndGate.fsm = s.fsm ∨ s.pollAndGate.fsm = .done := by
  obtain ⟨ds, -, ⟨he, -⟩ | ⟨he, -⟩ | ⟨f, -, -, -, he⟩⟩ := pollAndGate_cases s
  · rw [he, deframe_state s]
    exact .inl rfl
  · exact .inr (congrArg State.fsm he)
  · exact .inr (congrArg State.fsm he)

/-- A poll drains the FIFO and moves no count and no latch. -/
theorem pollAndGate_frame (s : State) :
    s.pollAndGate.rxFifo = [] ∧ SameCounters s s.pollAndGate ∧ SameLatches s s.pollAndGate := by
  obtain ⟨ds, -, ⟨he, -⟩ | ⟨he, -⟩ | ⟨f, -, -, -, he⟩⟩ := pollAndGate_cases s <;>
    rw [he, deframe_state s] <;> exact ⟨rfl, ⟨rfl, rfl, rfl⟩, rfl, rfl, rfl, rfl, rfl⟩

/-! ## The chunk of a poll -/

/-- Up to its poll, a polling event leaves the configuration alone. -/
theorem PollEvent.sameConfig (h : PollEvent i s b) : SameConfig s b := by
  obtain ⟨-, -, rfl⟩ | ⟨-, -, -, -, rfl⟩ | ⟨-, -, -, -, -, j, -, rfl⟩ := h <;>
    exact ⟨rfl, rfl, rfl, rfl, rfl, rfl, rfl⟩

theorem PollEvent.freshDeframer (h : PollEvent i s b) (hf : s.freshDeframer) : b.freshDeframer := by
  obtain ⟨⟨-, hfrag, hdisc⟩, -⟩ := h.keeps
  exact ⟨hfrag.trans hf.1, hdisc.trans hf.2⟩

/-- Without REASSEMBLY the deframer is stateless (R185). -/
theorem deframe_of_off (h : s.params.reassembly = .off) :
    s.deframe = (splitFrames s.rxFifo, { s with
      rxFifo := [], frameOvf := s.frameOvf || hasOversize s.rxFifo }) := by
  simp only [State.deframe, h, State.noteFrameOvf]

/-- With nothing carried over, a chunk that ends with 0xFF is deframed alike in both builds (R195). -/
theorem deframe_of_wholeChunk (hf : s.freshDeframer) (hc : WholeChunk s.rxFifo) :
    s.deframe = (splitFrames s.rxFifo, { s with
      rxFifo := [], frameOvf := s.frameOvf || hasOversize s.rxFifo }) := by
  obtain ⟨hfrag, hdisc⟩ := hf
  cases hr : s.params.reassembly with
  | off => exact deframe_of_off hr
  | on =>
    have hre := reassembleFrames_of_wholeChunk hc
    rw [← hfrag, ← hdisc] at hre
    exact deframe_of_on hr hre

/-- Deframing an oversize fragment, ended or not, yields nothing (R189). -/
theorem splitFrames_of_oversize {x : List Byte} (hx : terminator ∉ x) (hl : 15 < x.length) :
    splitFrames x = [] ∧ hasOversize x = true := by
  rw [splitFrames, hasOversize, fragments_of_clean hx]
  simp [keepFragment_of_oversize hl, Config.maxFragment, hl]

theorem splitFrames_of_ended_oversize {x : List Byte} (hx : terminator ∉ x) (hl : 15 < x.length) :
    splitFrames (x ++ [terminator]) = [] ∧ hasOversize (x ++ [terminator]) = true := by
  rw [splitFrames_run hx, hasOversize_run hx, keepFragment_of_oversize hl, decide_eq_true hl]
  exact ⟨rfl, rfl⟩

/-- The reassembling deframer reports exactly the oversize fragments of the chunk (R189, R193). -/
theorem reassembleFrames_overflow (c : List Byte) : (reassembleFrames [] false c).overflow = hasOversize c := by
  induction c using chunk_induction with
  | tail x hx =>
    rw [hasOversize, fragments_of_clean hx, List.any_cons, List.any_nil, Bool.or_false]
    by_cases hl : x.length ≤ 15
    · rw [reassembleFrames_of_fits hx (by simpa using hl)]
      exact (decide_eq_false (Nat.not_lt.2 hl)).symm
    · have hover : 15 < x.length := Nat.lt_of_not_le hl
      rw [reassembleFrames_of_oversize hx (by simp) (by simpa using hover)]
      exact (decide_eq_true hover).symm
  | run x rest hx ih =>
    rw [hasOversize_run hx]
    by_cases hl : x.length ≤ 15
    · rw [reassembleFrames_run_of_fits hx (by simpa using hl), decide_eq_false (Nat.not_lt.2 hl), ← ih]
      rfl
    · have hover : 15 < x.length := Nat.lt_of_not_le hl
      rw [reassembleFrames_run_of_oversize hx (by simp) (by simpa using hover), decide_eq_true hover]
      rfl

/-- With nothing carried over, FRAME_OVF is set by exactly the chunks with an oversize fragment (R189, R193). -/
theorem deframe_frameOvf_eq (hf : s.freshDeframer) :
    s.deframe.2.frameOvf = (s.frameOvf || hasOversize s.rxFifo) := by
  obtain ⟨hfrag, hdisc⟩ := hf
  cases hr : s.params.reassembly with
  | off => rw [deframe_of_off hr]
  | on => rw [deframe_of_on hr rfl, hfrag, hdisc, reassembleFrames_overflow]

theorem hasOversize_intercalate {fs : List (List Byte)} (hne : fs ≠ []) (hc : ∀ f ∈ fs, terminator ∉ f) :
    hasOversize (([terminator] : List Byte).intercalate fs) = true ↔ ∃ f ∈ fs, 15 < f.length := by
  rw [hasOversize, fragments_intercalate hne hc]
  simp [Config.maxFragment]

/-! ## A qualifying frame -/

/-- The frames a poll processes start with frames to pass over and one that qualifies (R299). -/
def QualifiesAfter (s : State) (fs : List (Byte × List Byte)) (h : Byte) (p : List Byte) (k : Kind) : Prop :=
  (∀ f ∈ fs, Passes s.latKind s.latAddr f) ∧ WholeFrame h p ∧ FromDevice s.latAddr h ∧ HasKind p k ∧
    EndsWait s.latKind k ∧ ∃ gs, s.deframe.1 = (fs.map fun f => ⟨f.1, f.2⟩) ++ ⟨h, p⟩ :: gs

section
variable {fs : List (Byte × List Byte)} {h : Byte} {p rest : List Byte} {k : Kind}

theorem QualifiesAfter.pollAndGate (hq : QualifiesAfter s fs h p k) :
    ∃ ds, Reports s.latAddr s.diagEn fs ds ∧ s.pollAndGate =
      ({ s.deframe.2 with outputs := s.outputs ++ ds } : State).finish .resolved k s.latAddr p .none := by
  obtain ⟨hfs, -, ha, hk, he, gs, hgs⟩ := hq
  obtain rfl := (hasKind_iff_classify p k).1 hk
  have hpoll := pollAndGate_resolves hgs hfs ((fromDevice_iff_addressedTo _ _).1 ha)
    ((endsWait_iff_resolves _ _).1 he)
  rwa [ha.2] at hpoll

theorem wholeFrame_of_mem (hfs : ∀ f ∈ fs, Passes s.latKind s.latAddr f) (hw : WholeFrame h p) :
    ∀ f ∈ fs ++ [(h, p)], WholeFrame f.1 f.2 :=
  List.forall_mem_append.2 ⟨fun f hm => (hfs f hm).1, List.forall_mem_singleton.2 hw⟩

/-- The whole frames of a chunk are the first a poll processes. -/
theorem qualifiesAfter_of_chunk (hf : s.freshDeframer) (hfs : ∀ f ∈ fs, Passes s.latKind s.latAddr f)
    (hx : s.rxFifo = chunkOf fs ++ frameBytes h p ++ rest) (hw : WholeFrame h p) (ha : FromDevice s.latAddr h)
    (hk : HasKind p k) (he : EndsWait s.latKind k) : QualifiesAfter s fs h p k := by
  obtain ⟨gs, hgs⟩ := deframe_chunkOf (rest := rest) hf (wholeFrame_of_mem hfs hw) (by simpa using hx)
  exact ⟨hfs, hw, ha, hk, he, gs, by simpa using hgs⟩

/-- Without REASSEMBLY an unterminated tail of the chunk is processed as a frame too (R190). -/
theorem qualifiesAfter_of_tail (hoff : s.params.reassembly = .off)
    (hfs : ∀ f ∈ fs, Passes s.latKind s.latAddr f) (hx : s.rxFifo = chunkOf fs ++ h :: p) (hw : WholeFrame h p)
    (ha : FromDevice s.latAddr h) (hk : HasKind p k) (he : EndsWait s.latKind k) : QualifiesAfter s fs h p k := by
  have htail : splitFrames (h :: p) = [⟨h, p⟩] := by
    rw [splitFrames, fragments_of_clean (wholeFrame_clean hw)]
    simp [keepFragment_wholeFrame hw]
  refine ⟨hfs, hw, ha, hk, he, [], ?_⟩
  rw [deframe_of_off hoff, hx, (splitFrames_chunkOf (fun f hm => (hfs f hm).1) _).1, htail]

end

/-! ## The last byte of a frame -/

/-- The last byte of a CMD's frame, with no settle delay, ends it with SENT (R289, R291). -/
theorem txAccept_last_ends_cmd {j : Fin 16} (hs : s.fsm = .send) (hj : s.txIdx.toNat = j.val)
    (hlast : s.txIdx + 1 = s.txLen) (hl : s.latSettle = 0) (hk : s.latKind = .cmd) :
    s.txAccept = { s with
      txIdx := s.txIdx + 1, fsm := .done, rsp := emptyRecord .sent s.latAddr .none,
      outputs := s.outputs ++ [.txByte s.txbuf[j], .response (emptyRecord .sent s.latAddr .none)] } := by
  rw [txAccept_of_send hs, if_pos hlast, endSend_of_zero (by exact hl), afterSettle_of_cmd (by exact hk),
    txData_eq_getElem hj, State.finish, mkRsp_empty]
  simp

/-- With nothing to report, the entry poll only drains the FIFO before its gate acts on a window of 0 (R292, R298). -/
theorem txAccept_last_gates (hs : s.fsm = .send) (hlast : s.txIdx + 1 = s.txLen) (hl : s.latSettle = 0)
    (hk : s.latKind ≠ .cmd) (hn : s.nothingToReport) :
    s.txAccept = ({ s.waitEntry with rxFifo := [] } : State).afterGate := by
  rw [txAccept_enters_wait hs hlast hl hk]
  exact pollAndGate_of_nothingToReport (s := s.waitEntry) hn

end

/-! ## The obligations -/

/-- Settles O25: the last byte goes out, and the settle delay, the kind and the gate decide what follows. -/
theorem lastByteSettlesFinishesOrWaits : Obligations.LastByteSettlesFinishesOrWaits := by
  unfold Obligations.LastByteSettlesFinishesOrWaits
  intro s j hs hj hlast
  refine ⟨fun hl => congrArg Host.Outcome.next ?settles,
    fun hl hk => congrArg Host.Outcome.next (txAccept_last_ends_cmd hs hj hlast hl hk),
    fun hl hk hn ht => congrArg Host.Outcome.next ?waits, fun hl hk hn ht => congrArg Host.Outcome.next ?timeout⟩
  case settles =>
    rw [hlast]
    exact txAccept_last_settles hs hj hlast hl
  case waits =>
    rw [txAccept_last_gates hs hlast hl hk hn, afterGate_of_open (by exact toNat_pos_of_ne_zero ht),
      ← txData_eq_getElem hj]
    rfl
  case timeout =>
    have hreached : s.latTimeout.toNat ≤ 0 := by rw [ht]; rfl
    rw [txAccept_last_gates hs hlast hl hk hn, afterGate_of_reached hreached, ← txData_eq_getElem hj]
    simp [State.waitEntry]

/-- Settles O31: the poll of every polling event processes the frames in order up to the qualifying one. -/
theorem firstQualifyingFrameResolves : Obligations.FirstQualifyingFrameResolves := by
  unfold Obligations.FirstQualifyingFrameResolves
  intro i s b fs h p rest k hev hf hfs hx hw ha hk he
  obtain ⟨⟨hrx, -⟩, ⟨hkind, haddr, -⟩, -⟩ := hev.keeps
  obtain ⟨-, hdiag, -⟩ := hev.sameConfig
  rw [← hrx] at hx
  rw [← hkind] at he hfs
  rw [← haddr] at ha hfs ⊢
  have hfb := hev.freshDeframer hf
  obtain ⟨ds, hds, hpoll⟩ := (qualifiesAfter_of_chunk hfb hfs hx hw ha hk he).pollAndGate
  refine ⟨b.pollAndGate, ds, exec_of_pollEvent hev, ?_⟩
  rw [hpoll, ← hdiag]
  refine ⟨rfl, mkRsp_resolved hw.2.2.2, hds, rfl, ?_⟩
  have hend : rest = [] → b.deframe.2.frag = [] ∧ b.deframe.2.fragDiscard = false ∧
      b.deframe.2.frameOvf = b.frameOvf := fun hrest => by
    rw [deframe_wholeFrames hfb (wholeFrame_of_mem hfs hw) (by simpa [hrest] using hx)]
    exact ⟨hfb.1, hfb.2, rfl⟩
  rw [deframe_state b]
  exact ⟨rfl, ⟨rfl, rfl, rfl⟩, ⟨rfl, rfl, rfl, rfl, rfl⟩, ⟨rfl, rfl, rfl⟩, ⟨rfl, rfl, rfl, rfl, rfl, rfl, rfl⟩, rfl, rfl,
    ⟨rfl, rfl, rfl⟩, hend⟩

/-- Settles O33: the poll passes over the frames, putting out their events, and then the gate acts. -/
theorem nonResolvingFramesAreReportedOrIgnored : Obligations.NonResolvingFramesAreReportedOrIgnored := by
  unfold Obligations.NonResolvingFramesAreReportedOrIgnored
  intro i s b fs hev hf hfs hx
  obtain ⟨⟨hrx, -⟩, ⟨hkind, haddr, htimeout, -⟩, -⟩ := hev.keeps
  obtain ⟨-, hdiag, -⟩ := hev.sameConfig
  rw [← hrx] at hx
  rw [← hkind, ← haddr] at hfs
  rw [← haddr, ← hdiag, ← htimeout]
  obtain ⟨ds, hds, hpoll⟩ := pollAndGate_passing (hev.freshDeframer hf) hfs hx
  refine ⟨ds, hds, fun hopen => ?_, fun hreached => ?_⟩
  · rw [exec_of_pollEvent hev, hpoll, afterGate_of_open (by exact hopen)]
  · rw [exec_of_pollEvent hev, hpoll, afterGate_of_reached (by exact hreached)]

/-- Settles O35: each clause is what the deframer makes of the chunk, and then the gate or the qualifying tail. -/
theorem pollsHandleEmptyOversizeAndTailChunks : Obligations.PollsHandleEmptyOversizeAndTailChunks := by
  unfold Obligations.PollsHandleEmptyOversizeAndTailChunks
  intro i s b hev
  obtain ⟨⟨hrx, -⟩, ⟨hkind, haddr, -⟩, hparams, hovf⟩ := hev.keeps
  obtain ⟨-, hdiag, -⟩ := hev.sameConfig
  rw [exec_of_pollEvent hev]
  simp only [← hrx, ← hkind, ← haddr, ← hparams, ← hdiag, ← hovf]
  refine ⟨?empty, ?ended, ?unended, ?tail, ?flag⟩
  case empty => exact fun hx => congrArg Host.Outcome.next (pollAndGate_of_empty hx)
  case ended =>
    intro x hf hx hl hc
    obtain ⟨hframes, hover⟩ := splitFrames_of_ended_oversize hx hl
    have hd := deframe_of_wholeChunk (hev.freshDeframer hf) (.inr (by rw [hc, List.getLast?_concat]))
    rw [hc, hframes, hover, Bool.or_true] at hd
    rw [pollAndGate_of_noFrames hd rfl rfl]
  case unended =>
    intro x hoff hx hl hc
    obtain ⟨hframes, hover⟩ := splitFrames_of_oversize hx hl
    have hd := deframe_of_off hoff
    rw [hc, hframes, hover, Bool.or_true] at hd
    rw [pollAndGate_of_noFrames hd rfl rfl]
  case tail =>
    intro fs h p k hoff hfs hx hw ha hk he
    obtain ⟨ds, hds, hpoll⟩ := (qualifiesAfter_of_tail hoff hfs hx hw ha hk he).pollAndGate
    refine ⟨_, ds, rfl, ?_⟩
    rw [hpoll, deframe_state b]
    exact ⟨rfl, mkRsp_resolved hw.2.2.2, rfl, hds, rfl⟩
  case flag =>
    intro fs hf hne hclean hx
    obtain ⟨-, hkeeps⟩ := pollAndGate_keeps_deframed b
    refine ⟨_, rfl, ?_⟩
    rw [hkeeps, deframe_frameOvf_eq (hev.freshDeframer hf), hx, Bool.or_eq_true, hasOversize_intercalate hne hclean]

end Sys2Proof.Machine
end

/-! # Proofs: where the sequencer goes, and how long a delay and a wait last (00_scope.md R11; 45_transaction_engine.md
R280, R290 to R306) -/

section
namespace Sys2Proof.Machine

section
variable {i : Instr} {s : State}

/-! ## The sequencer (R280) -/

/-- After the settle delay a transaction is done or waits (R291). -/
theorem afterSettle_fsm (s : State) : s.afterSettle.fsm = .wait ∨ s.afterSettle.fsm = .done := by
  by_cases hk : s.latKind = .cmd
  · exact .inr (congrArg State.fsm (afterSettle_of_cmd hk))
  · rw [afterSettle_of_waiting hk]
    exact pollAndGate_fsm _

theorem endSend_fsm (s : State) : s.endSend.fsm = .settle ∨ s.endSend.fsm = .wait ∨ s.endSend.fsm = .done := by
  by_cases hl : s.latSettle = 0
  · exact .inr (endSend_of_zero hl ▸ afterSettle_fsm s)
  · exact .inl (congrArg State.fsm (endSend_of_delay hl))

theorem txAccept_fsm (hne : s.txAccept.fsm ≠ s.fsm) :
    s.fsm = .send ∧ (s.txAccept.fsm = .settle ∨ s.txAccept.fsm = .wait ∨ s.txAccept.fsm = .done) := by
  by_cases hs : s.fsm = .send
  case neg => exact absurd (congrArg State.fsm (txAccept_of_ne_send hs)) hne
  case pos =>
    rw [txAccept_of_send hs] at hne ⊢
    split at hne
    case isFalse => exact absurd rfl hne
    case isTrue hlast =>
      rw [if_pos hlast]
      exact ⟨hs, endSend_fsm _⟩

theorem tickSettle_fsm (hne : s.tickSettle.fsm ≠ s.fsm) : s.tickSettle.fsm = .wait ∨ s.tickSettle.fsm = .done := by
  unfold State.tickSettle at hne ⊢
  dsimp only at hne ⊢
  split at hne
  case isFalse => exact absurd rfl hne
  case isTrue hend =>
    rw [if_pos hend]
    exact afterSettle_fsm _

theorem tickWait_fsm (hne : s.tickWait.fsm ≠ s.fsm) : s.tickWait.fsm = .done := by
  unfold State.tickWait at hne ⊢
  dsimp only at hne ⊢
  split at hne
  case isFalse => exact absurd rfl hne
  case isTrue hdue =>
    rw [if_pos hdue]
    exact (pollAndGate_fsm _).resolve_left hne

theorem tick_fsm (hne : s.tick.fsm ≠ s.fsm) :
    (s.fsm = .settle ∧ (s.tick.fsm = .wait ∨ s.tick.fsm = .done)) ∨ (s.fsm = .wait ∧ s.tick.fsm = .done) := by
  cases hs : s.fsm with
  | settle =>
    rw [tick_of_settle hs] at hne ⊢
    exact .inl ⟨rfl, tickSettle_fsm hne⟩
  | wait =>
    rw [tick_of_wait hs] at hne ⊢
    exact .inr ⟨rfl, tickWait_fsm hne⟩
  | idle | send | done => exact absurd (congrArg State.fsm (tick_of_quiet (by simp [hs]))) hne

theorem takeResponse_fsm (hne : s.takeResponse.fsm ≠ s.fsm) : s.fsm = .done ∧ s.takeResponse.fsm = .idle := by
  by_cases hs : s.fsm = .done
  · exact ⟨hs, congrArg State.fsm (takeResponse_of_done hs)⟩
  · exact absurd (congrArg State.fsm (takeResponse_of_ne hs)) hne

theorem request_fsm {k : ReqKind} {d : List Byte} (hne : (s.request k d).fsm ≠ s.fsm) :
    s.fsm = .idle ∧ ((s.request k d).fsm = .send ∨ (s.request k d).fsm = .done) := by
  obtain ⟨hs, -, h⟩ | ⟨hs, -, h⟩ | ⟨-, h⟩ := request_cases s k d
  · exact ⟨hs, .inl (congrArg State.fsm h)⟩
  · exact ⟨hs, .inr (congrArg State.fsm h)⟩
  · exact absurd (congrArg State.fsm h) hne

theorem pushBytes_fsm (s : State) (bs : List Byte) : (s.pushBytes bs).fsm = s.fsm := by
  obtain ⟨kept, o, h, -⟩ := pushBytes_cases s bs
  rw [h]

/-! ## Runs -/

theorem execAll_cons {t : State} {is : List Instr} (h : exec i s = .next t) : execAll (i :: is) s = execAll is t := by
  simp only [execAll, h]

theorem execAll_append {t : State} {is js : List Instr} (h : execAll is s = .next t) :
    execAll (is ++ js) s = execAll js t := by
  induction is generalizing s with
  | nil => cases h; rfl
  | cons i is ih =>
    rw [List.cons_append]
    cases he : exec i s with
    | next u =>
      rw [execAll_cons he] at h ⊢
      exact ih h
    | fault r => simp only [execAll, he] at h; cases h
    | refused r => simp only [execAll, he] at h; cases h

/-- A run of TICKs is TICK iterated. -/
theorem execAll_tick (n : Nat) (s : State) : execAll (List.replicate n .tick) s = .next (State.tick^[n] s) := by
  induction n generalizing s with
  | zero => rfl
  | succ n ih => exact ih s.tick

/-! ## The settle delay (R290, R291) -/

/-- Before the last one, a TICK of the delay only counts. -/
theorem tickSettle_counts (h : s.settleCnt.toNat + 1 < s.latSettle.toNat) :
    s.tickSettle = { s with settleCnt := s.settleCnt + 1 } := by
  have hopen : ¬ s.latSettle ≤ s.settleCnt + 1 := by
    have hmax := s.latSettle.isLt
    have hsucc : (s.settleCnt + 1).toNat = s.settleCnt.toNat + 1 := BitVec.toNat_add_of_lt (y := 1) (by simp; omega)
    rw [BitVec.le_def]
    omega
  exact if_neg hopen

/-- The last TICK of the delay ends it. -/
theorem tickSettle_ends (h : s.settleCnt.toNat + 1 = s.latSettle.toNat) :
    s.tickSettle = State.afterSettle { s with settleCnt := s.latSettle } := by
  have hend : s.settleCnt + 1 = s.latSettle :=
    BitVec.eq_of_toNat_eq (by have hmax := s.latSettle.isLt; simp; omega)
  rw [State.tickSettle, hend]
  exact if_pos (BitVec.le_refl _)

/-- The settle delay after `n` ticks of it. -/
def State.settling (n : Nat) (s : State) : State := { s with settleCnt := BitVec.ofNat 32 n }

theorem settling_settleCnt {n : Nat} (hn : n < s.latSettle.toNat) : (s.settling n).settleCnt.toNat = n := by
  have hmax := s.latSettle.isLt
  exact (BitVec.toNat_ofNat ..).trans (Nat.mod_eq_of_lt (by omega))

theorem iterate_tick_settling {n : Nat} (hs : s.fsm = .settle) (h0 : s.settleCnt = 0) (hn : n < s.latSettle.toNat) :
    State.tick^[n] s = s.settling n := by
  induction n with
  | zero => exact congrArg (fun c => { s with settleCnt := c }) h0
  | succ n ih =>
    have hcnt : (s.settling n).settleCnt.toNat + 1 < s.latSettle.toNat := by
      rwa [settling_settleCnt (by omega)]
    rw [Function.iterate_succ_apply', ih (by omega), tick_of_settle (s := s.settling n) hs, tickSettle_counts hcnt,
      State.settling, State.settling, BitVec.ofNat_add]
    rfl

theorem iterate_tick_settling_last (hs : s.fsm = .settle) (h0 : s.settleCnt = 0) (hl : s.latSettle ≠ 0) :
    State.tick^[s.latSettle.toNat] s = State.afterSettle { s with settleCnt := s.latSettle } := by
  obtain ⟨n, hn⟩ := Nat.exists_eq_add_one.2 (toNat_pos_of_ne_zero hl)
  have hcnt : (s.settling n).settleCnt.toNat + 1 = s.latSettle.toNat := by rw [settling_settleCnt (by omega), hn]
  rw [hn, Function.iterate_succ_apply', iterate_tick_settling hs h0 (by omega),
    tick_of_settle (s := s.settling n) hs, tickSettle_ends hcnt]
  rfl

/-- The state from which the poll at the end of a settle delay starts (R292). -/
def State.settleExit (s : State) : State :=
  { s with settleCnt := s.latSettle, fsm := .wait, waitCnt := 0, pollCnt := 0 }

/-! ## One TICK of a wait (R294) -/

theorem satSucc_eq_elapsedNext (s : State) : satSucc s.waitCnt = BitVec.ofNat 32 s.elapsedNext := by
  rw [State.elapsedNext, ← satSucc_toNat, BitVec.ofNat_toNat, BitVec.setWidth_eq]

/-- The poll count does not wrap below the spacing. -/
theorem pollCnt_succ_toNat (h : s.pollCnt.toNat < max s.latPoll.toNat 1) :
    (s.pollCnt + 1).toNat = s.pollCnt.toNat + 1 := by
  have hmax := s.latPoll.isLt
  exact BitVec.toNat_add_of_lt (y := 1) (by simp; omega)

/-! ## The bound of a wait (R301) -/

/-- In WAIT, `r` ticks are enough to reach a poll at or after the deadline: a deadline that has passed is noticed at
the next poll, and one still to come at most P − 1 ticks late. -/
structure State.WaitsAtMost (r : Nat) (s : State) : Prop where
  waits : s.fsm = .wait
  counts : s.pollCnt.toNat < max s.latPoll.toNat 1
  passed : s.latTimeout.toNat ≤ s.waitCnt.toNat → max s.latPoll.toNat 1 - s.pollCnt.toNat ≤ r
  ahead : s.waitCnt.toNat < s.latTimeout.toNat →
    s.latTimeout.toNat - s.waitCnt.toNat + max s.latPoll.toNat 1 - 1 ≤ r

section
variable {r r' : Nat} {t : State} {es : List Instr}

/-- At least one tick is left. -/
theorem State.WaitsAtMost.pos (h : s.WaitsAtMost r) : 0 < r := by
  obtain ⟨-, hcnt, hpassed, hahead⟩ := h
  omega

/-- A TICK ends the wait or uses up one of the ticks left. -/
theorem State.WaitsAtMost.tick (h : s.WaitsAtMost r) : s.tick.fsm = .done ∨ s.tick.WaitsAtMost (r - 1) := by
  obtain ⟨hs, hcnt, hpassed, hahead⟩ := h
  have hsat := satSucc_toNat s.waitCnt
  have hmax := s.latTimeout.isLt
  rw [tick_of_wait hs]
  obtain hbetween | hdue := Nat.lt_or_eq_of_le (Nat.succ_le_of_lt hcnt)
  · have hsucc := pollCnt_succ_toNat hcnt
    rw [tickWait_between hbetween]
    refine .inr ⟨hs, ?_, ?_, ?_⟩ <;> dsimp only <;> omega
  · rw [tickWait_due hdue]
    by_cases hreached : s.latTimeout.toNat ≤ (satSucc s.waitCnt).toNat
    · exact .inl (pollAndGate_done_of_reached hreached)
    · refine (pollAndGate_fsm _).symm.imp_right fun hwaits => ?_
      obtain ⟨-, ⟨-, hw, hp⟩, -, -, ht, -, hl⟩ :=
        pollAndGate_frame { s with waitCnt := satSucc s.waitCnt, pollCnt := 0 }
      dsimp only at hw hp ht hl
      refine ⟨hwaits.trans hs, ?counts, ?passed, ?ahead⟩
      case counts =>
        rw [hp, hl]
        exact Nat.lt_of_lt_of_le Nat.one_pos (Nat.le_max_right ..)
      case passed =>
        rw [hw, ht]
        exact fun h => absurd h hreached
      case ahead =>
        rw [hw, ht, hl]
        omega

/-- The events `es` end the wait of `s` in DONE, after at most `r` ticks, and up to then the block waits. -/
def State.EndsWithin (r : Nat) (es : List Instr) (s : State) : Prop :=
  ∃ n u, (es.take n).count .tick ≤ r ∧ execAll (es.take n) s = .next u ∧ u.fsm = .done ∧
    ∀ m < n, ∃ v, execAll (es.take m) s = .next v ∧ v.fsm = .wait

theorem State.EndsWithin.of_done (h : s.fsm = .done) : s.EndsWithin 0 es :=
  ⟨0, s, Nat.le_refl 0, rfl, h, nofun⟩

/-- A wait that ends after one more event ends. -/
theorem State.EndsWithin.cons (hs : s.fsm = .wait) (hi : exec i s = .next t) (h : t.EndsWithin r es)
    (hr : [i].count .tick + r ≤ r') : s.EndsWithin r' (i :: es) := by
  obtain ⟨n, u, hcount, hrun, hdone, hwait⟩ := h
  refine ⟨n + 1, u, ?_, (execAll_cons hi).trans hrun, hdone, fun m hm => ?_⟩
  · rw [List.take_succ_cons, ← List.singleton_append, List.count_append]
    omega
  · cases m with
    | zero => exact ⟨s, rfl, hs⟩
    | succ m =>
      obtain ⟨v, hrun, hv⟩ := hwait m (by omega)
      exact ⟨v, (execAll_cons hi).trans hrun, hv⟩

/-- Whatever else comes between them, the ticks of the bound end the wait. -/
theorem State.WaitsAtMost.endsWithin (h : s.WaitsAtMost r) (hes : ∀ i ∈ es, i.wf = true ∧ i ≠ .reset)
    (hr : r ≤ es.count .tick) : s.EndsWithin r es := by
  induction es generalizing s r with
  | nil => exact absurd hr (Nat.not_le_of_lt h.pos)
  | cons i es ih =>
    obtain ⟨⟨hwf, hreset⟩, hrest⟩ := List.forall_mem_cons.1 hes
    have hpos := h.pos
    by_cases hi : i = .tick
    · subst hi
      rw [List.count_cons_self] at hr
      have hone : [Instr.tick].count .tick = 1 := rfl
      obtain hdone | hwaits := h.tick
      · exact .cons h.waits rfl (.of_done hdone) (by omega)
      · exact .cons h.waits rfl (ih hwaits hrest (by omega)) (by omega)
    · rw [List.count_cons_of_ne hi] at hr
      have hzero : [i].count .tick = 0 := List.count_cons_of_ne hi
      obtain ⟨t, hexec, hfsm, ht, hp, hw, hq⟩ := exec_in_wait h.waits hwf hi hreset
      have hwaits : t.WaitsAtMost r :=
        ⟨hfsm, by rw [hp, hq]; exact h.counts, by rw [ht, hp, hw, hq]; exact h.passed,
          by rw [ht, hp, hw]; exact h.ahead⟩
      exact .cons h.waits hexec (ih hwaits hrest hr) (by omega)

/-- At WAIT entry the bound is T + P − 1 (R301). -/
theorem waitsAtMost_at_entry (hs : s.fsm = .wait) (hw : s.waitCnt = 0) (hp : s.pollCnt = 0) (ht : s.latTimeout ≠ 0) :
    s.WaitsAtMost (s.latTimeout.toNat + max s.latPoll.toNat 1 - 1) := by
  have hw0 : s.waitCnt.toNat = 0 := by rw [hw]; rfl
  have hp0 : s.pollCnt.toNat = 0 := by rw [hp]; rfl
  have hpos := toNat_pos_of_ne_zero ht
  exact ⟨hs, by omega, by omega, by omega⟩

end

/-! ## A wait in which nothing is received (R295) -/

/-- The count of ticks since the last multiple of `q` reaches `q` at the next one. -/
theorem dvd_succ_iff_mod {n q : Nat} (hq : 0 < q) : q ∣ n + 1 ↔ n % q + 1 = q := by
  have hlt := Nat.mod_lt n hq
  rw [Nat.dvd_iff_mod_eq_zero, ← Nat.mod_add_mod]
  constructor
  · intro h
    by_contra hne
    rw [Nat.mod_eq_of_lt (by omega)] at h
    omega
  · intro h
    rw [h, Nat.mod_self]

/-- A wait with nothing received, `n` ticks after its entry. -/
def State.waited (n : Nat) (s : State) : State :=
  { s with waitCnt := BitVec.ofNat 32 (min n 4294967295), pollCnt := BitVec.ofNat 32 (n % max s.latPoll.toNat 1) }

/-- The ticks after which a wait with nothing received ends: P × ⌈T/P⌉ (R295). -/
def State.silentTicks (s : State) : Nat :=
  max s.latPoll.toNat 1 * ((s.latTimeout.toNat + max s.latPoll.toNat 1 - 1) / max s.latPoll.toNat 1)

theorem waited_waitCnt_toNat (n : Nat) (s : State) : (s.waited n).waitCnt.toNat = min n 4294967295 :=
  (BitVec.toNat_ofNat ..).trans (Nat.mod_eq_of_lt (by omega))

/-- The elapsed count of the wait goes on by one, up to its limit. -/
theorem satSucc_waited (n : Nat) (s : State) : satSucc (s.waited n).waitCnt = (s.waited (n + 1)).waitCnt := by
  apply BitVec.eq_of_toNat_eq
  rw [satSucc_toNat, waited_waitCnt_toNat, waited_waitCnt_toNat]
  omega

theorem waited_pollCnt_toNat (n : Nat) (s : State) : (s.waited n).pollCnt.toNat = n % max s.latPoll.toNat 1 := by
  have hmax := s.latPoll.isLt
  have hlt := Nat.mod_lt n (y := max s.latPoll.toNat 1) (by omega)
  exact (BitVec.toNat_ofNat ..).trans (Nat.mod_eq_of_lt (by omega))

theorem waited_zero (hw : s.waitCnt = 0) (hp : s.pollCnt = 0) : s = s.waited 0 := by
  rw [State.waited, Nat.zero_min, Nat.zero_mod]
  cases s
  simp_all

/-- The last multiple of the spacing before the end is before the deadline. -/
theorem lt_latTimeout_of_dvd {n : Nat} (hd : max s.latPoll.toNat 1 ∣ n) (hn : n < s.silentTicks) :
    n < s.latTimeout.toNat := by
  obtain ⟨k, rfl⟩ := hd
  have hk := Nat.lt_of_mul_lt_mul_left hn
  have hle := (Nat.le_div_iff_mul_le (by omega)).1 (Nat.succ_le_of_lt hk)
  rw [Nat.succ_mul, Nat.mul_comm] at hle
  omega

theorem latTimeout_le_silentTicks (s : State) : s.latTimeout.toNat ≤ s.silentTicks := by
  have hmod := Nat.mod_lt (s.latTimeout.toNat + max s.latPoll.toNat 1 - 1) (y := max s.latPoll.toNat 1) (by omega)
  have hdiv := Nat.div_add_mod (s.latTimeout.toNat + max s.latPoll.toNat 1 - 1) (max s.latPoll.toNat 1)
  rw [State.silentTicks]
  omega

section
variable (hs : s.fsm = .wait) (hx : s.rxFifo = [])
include hs

/-- A tick that is no multiple of the spacing only counts. -/
theorem tick_waited_between {n : Nat} (hd : ¬ max s.latPoll.toNat 1 ∣ n + 1) :
    (s.waited n).tick = s.waited (n + 1) := by
  have hlt : n % max s.latPoll.toNat 1 + 1 < max s.latPoll.toNat 1 :=
    Nat.lt_of_le_of_ne (Nat.mod_lt n (by omega)) fun he => hd ((dvd_succ_iff_mod (by omega)).2 he)
  have hcnt : (s.waited n).pollCnt.toNat + 1 < max (s.waited n).latPoll.toNat 1 := by
    rwa [waited_pollCnt_toNat]
  have hq : (s.waited n).pollCnt + 1 = (s.waited (n + 1)).pollCnt := by
    apply BitVec.eq_of_toNat_eq
    rw [pollCnt_succ_toNat (Nat.lt_of_succ_lt hcnt), waited_pollCnt_toNat, waited_pollCnt_toNat, ← Nat.mod_add_mod,
      Nat.mod_eq_of_lt hlt]
  rw [tick_of_wait (s := s.waited n) hs, tickWait_between hcnt, hq, satSucc_waited]
  rfl

include hx

/-- A tick that is a multiple of the spacing polls the empty FIFO. -/
theorem tick_waited_due {n : Nat} (hd : max s.latPoll.toNat 1 ∣ n + 1) :
    (s.waited n).tick = (s.waited (n + 1)).afterGate := by
  have hcnt : (s.waited n).pollCnt.toNat + 1 = max (s.waited n).latPoll.toNat 1 := by
    rw [waited_pollCnt_toNat]
    exact (dvd_succ_iff_mod (by omega)).1 hd
  have hq : 0 = (s.waited (n + 1)).pollCnt :=
    BitVec.eq_of_toNat_eq (by rw [waited_pollCnt_toNat, Nat.mod_eq_zero_of_dvd hd]; rfl)
  rw [tick_of_wait (s := s.waited n) hs, tickWait_due hcnt, satSucc_waited, hq]
  exact pollAndGate_of_empty (s := s.waited (n + 1)) hx

/-- Before its last tick the wait goes on. -/
theorem iterate_tick_waited {n : Nat} (hw : s.waitCnt = 0) (hp : s.pollCnt = 0) (hn : n < s.silentTicks) :
    State.tick^[n] s = s.waited n := by
  induction n with
  | zero => exact waited_zero hw hp
  | succ n ih =>
    rw [Function.iterate_succ_apply', ih (by omega)]
    by_cases hd : max s.latPoll.toNat 1 ∣ n + 1
    · have hopen : (s.waited (n + 1)).waitCnt.toNat < s.latTimeout.toNat := by
        rw [waited_waitCnt_toNat]
        exact Nat.lt_of_le_of_lt (Nat.min_le_left ..) (lt_latTimeout_of_dvd hd hn)
      rw [tick_waited_due hs hx hd, afterGate_of_open (by exact hopen)]
    · exact tick_waited_between hs hd

/-- Its last tick ends it in TIMEOUT. -/
theorem iterate_tick_silentTicks (hw : s.waitCnt = 0) (hp : s.pollCnt = 0) (ht : s.latTimeout ≠ 0) :
    State.tick^[s.silentTicks] s = { s.waited s.silentTicks with
      fsm := .done
      rsp := emptyRecord .timeout s.latAddr .none
      outputs := s.outputs ++ [.response (emptyRecord .timeout s.latAddr .none)] } := by
  have hle := latTimeout_le_silentTicks s
  have hreached : s.latTimeout.toNat ≤ (s.waited s.silentTicks).waitCnt.toNat := by
    have hmax := s.latTimeout.isLt
    rw [waited_waitCnt_toNat]
    omega
  obtain ⟨n, hn⟩ := Nat.exists_eq_add_one.2 (Nat.lt_of_lt_of_le (toNat_pos_of_ne_zero ht) hle)
  have hd : max s.latPoll.toNat 1 ∣ n + 1 := hn ▸ Nat.dvd_mul_right ..
  rw [hn] at hreached ⊢
  rw [Function.iterate_succ_apply', iterate_tick_waited hs hx hw hp (by omega), tick_waited_due hs hx hd,
    afterGate_of_reached (by exact hreached)]
  rfl

end

end

/-! ## The obligations -/

/-- Settles O58: of the ten effects of an event, each moves the sequencer along its own rows of the table. -/
theorem fsmMovesOnlyAsTabled : Obligations.FsmMovesOnlyAsTabled := by
  unfold Obligations.FsmMovesOnlyAsTabled
  intro i s t h hne
  cases effect_of_exec h with
  | unchanged | give | reserved => exact absurd rfl hne
  | request k d hi => exact .inr (.inl ⟨hi, request_fsm hne⟩)
  | cfgWrite idx v =>
    obtain ⟨-, -, -, -, hfsm⟩ := cfgWrite_frame s idx v
    exact absurd hfsm hne
  | take hi => exact .inr (.inr (.inr (.inr (.inr ⟨hi, takeResponse_fsm hne⟩))))
  | receive bs => exact absurd (pushBytes_fsm s bs) hne
  | transmit hi => exact .inr (.inr (.inl ⟨hi, txAccept_fsm hne⟩))
  | tick hi =>
    obtain hsettle | hwait := tick_fsm hne
    · exact .inr (.inr (.inr (.inl ⟨hi, hsettle⟩)))
    · exact .inr (.inr (.inr (.inr (.inl ⟨hi, hwait⟩))))
  | reset hi => exact .inl ⟨hi, rfl⟩

/-- Settles O30: such a TICK moves the two counts. -/
theorem tickBetweenPollsOnlyCounts : Obligations.TickBetweenPollsOnlyCounts := by
  unfold Obligations.TickBetweenPollsOnlyCounts
  intro s hs hlt
  rw [← satSucc_eq_elapsedNext]
  exact congrArg Host.Outcome.next ((tick_of_wait hs).trans (tickWait_between hlt))

/-- Settles O29: the ticks of the delay only count, and its last one ends a CMD or polls. -/
theorem settleLastsExactlyItsTicks : Obligations.SettleLastsExactlyItsTicks := by
  unfold Obligations.SettleLastsExactlyItsTicks
  intro s hs h0 hl
  refine ⟨fun n hn => (execAll_tick n s).trans (congrArg Host.Outcome.next (iterate_tick_settling hs h0 hn)), ?_⟩
  refine ⟨_, (execAll_tick _ s).trans (congrArg Host.Outcome.next (iterate_tick_settling_last hs h0 hl)), ?_⟩
  have hpoll : s.latKind ≠ .cmd →
      State.afterSettle { s with settleCnt := s.latSettle } = s.settleExit.pollAndGate := fun hk =>
    afterSettle_of_waiting (by exact hk)
  have hgate : s.latKind ≠ .cmd → s.nothingToReport →
      State.afterSettle { s with settleCnt := s.latSettle } = ({ s.settleExit with rxFifo := [] } : State).afterGate :=
    fun hk hn => (hpoll hk).trans (pollAndGate_of_nothingToReport (s := s.settleExit) hn)
  have hfsm := afterSettle_fsm { s with settleCnt := s.latSettle }
  refine ⟨?left, ?sent, fun hk => ?entered, fun hk hn ht => ?waits, fun hk hn ht => ?timeout, ?resolved⟩
  case left => obtain h | h := hfsm <;> rw [h] <;> nofun
  case sent =>
    intro hk
    rw [afterSettle_of_cmd (by exact hk), State.finish, mkRsp_empty]
  case entered =>
    rw [hpoll hk] at hfsm ⊢
    obtain ⟨hrx, ⟨-, hw, hp⟩, -⟩ := pollAndGate_frame s.settleExit
    exact ⟨hw, hp, hrx, hfsm⟩
  case waits =>
    rw [hgate hk hn, afterGate_of_open (by exact toNat_pos_of_ne_zero ht)]
    rfl
  case timeout =>
    have hreached : s.latTimeout.toNat ≤ 0 := by rw [ht]; rfl
    rw [hgate hk hn, afterGate_of_reached (by exact hreached)]
    rfl
  case resolved =>
    intro fs h p rest k hf hfs hx hw ha hk he
    obtain ⟨ds, hds, hres⟩ :=
      (qualifiesAfter_of_chunk (s := s.settleExit) hf hfs hx hw ha hk he).pollAndGate
    rw [hpoll (ne_cmd_of_endsWait he), hres]
    exact ⟨rfl, mkRsp_resolved hw.2.2.2, ds, hds, rfl⟩

/-- Settles O36: each tick uses up one of the ticks that the bound leaves, and no other event changes their number. -/
theorem waitEndsWithinItsBound : Obligations.WaitEndsWithinItsBound := by
  unfold Obligations.WaitEndsWithinItsBound
  exact ⟨fun s es hs hw hp ht hes hr => (waitsAtMost_at_entry hs hw hp ht).endsWithin hes hr,
    fun i s b hev hreached => ⟨_, exec_of_pollEvent hev, pollAndGate_done_of_reached
      (by obtain ⟨-, ⟨-, -, htimeout, -⟩, -⟩ := hev.keeps; rwa [htimeout])⟩⟩

/-- Settles O37: the polls come at the multiples of the spacing, and the gate lets all but the last one pass. -/
theorem silentWaitTimesOutAtItsExactTick : Obligations.SilentWaitTimesOutAtItsExactTick := by
  unfold Obligations.SilentWaitTimesOutAtItsExactTick
  intro s hs hw hp ht hx
  refine ⟨fun n hn => ⟨s.waited n, ?_, hs, rfl⟩, _, execAll_tick s.silentTicks s, ?_⟩
  · rw [execAll_tick, iterate_tick_waited hs hx hw hp hn]
  · rw [iterate_tick_silentTicks hs hx hw hp ht]
    exact ⟨rfl, rfl, records_of_onlyDiags (ds := []) (by simp [onlyDiags]) (by simp)⟩

end Sys2Proof.Machine
end

/-! # Proofs: an inquiry from the request to its record (45_transaction_engine.md R283 to R297; 70_reset_and_hazards.md
R398) -/

section
namespace Sys2Proof.Machine

section
variable {s : State} {t : List Byte}

/-- An inquiry that has been sent from `s`, with no settle delay and nothing received, at WAIT entry. -/
def State.awaitingReply (t : List Byte) (s : State) : State :=
  { (s.accept .inq t).sentBytes (t.length + 1) with fsm := .wait, waitCnt := 0, pollCnt := 0 }

theorem awaitingReply_wire (hl : t.length ≤ 15) :
    (s.awaitingReply t).wire = s.wire ++ encodeFrame s.targetAddr t := by
  have hframe : (s.accept .inq t).txFrame.take (t.length + 1) = encodeFrame s.targetAddr t := by
    rw [accept_txFrame hl]
    exact List.take_length (l := encodeFrame s.targetAddr t)
  rw [← hframe]
  exact wire_sentBytes (t.length + 1) (s.accept .inq t)

theorem awaitingReply_records : (s.awaitingReply t).records = s.records :=
  records_of_noResponse (os := ((s.accept .inq t).txFrame.take (t.length + 1)).map .txByte)
    (List.forall_mem_map.2 fun _ _ => nofun) rfl

/-- The request is accepted, its frame goes out, and the entry poll of the empty FIFO finds nothing in an open window
(R283, R288, R289, R292). -/
theorem execAll_sends_inquiry (hs : s.fsm = .idle) (hx : s.rxFifo = []) (hl : s.settle = 0) (ht : s.timeout ≠ 0)
    (hv : validTemplate t) :
    execAll (.reqInq t :: List.replicate (t.length + 1) .txacc) s = .next (s.awaitingReply t) := by
  have hlen := accept_txLen_toNat (s := s) (k := .inq) hv.length_le
  have hreq : exec (.reqInq t) s = .next (s.accept .inq t) :=
    congrArg Host.Outcome.next (request_of_valid hs ((validate_eq_none_iff .inq t).2 ⟨nofun, hv⟩))
  have hsent : State.txAccept^[t.length + 1] (s.accept .inq t) =
      ((s.accept .inq t).sentBytes (t.length + 1)).endSend := by
    have hrun := iterate_txAccept_txLen (s := s.accept .inq t) rfl rfl (by have := hv.length_le; omega) (by omega)
    rwa [hlen] at hrun
  rw [execAll_cons hreq, execAll_txacc, hsent, endSend_of_zero (by exact hl), afterSettle_of_waiting (by exact nofun)]
  refine congrArg Host.Outcome.next ((pollAndGate_of_empty (s := s.awaitingReply t) hx).trans ?_)
  exact afterGate_of_open (toNat_pos_of_ne_zero ht)

/-- The reply's frame arrives in an empty FIFO (R107, R316; log 9). -/
theorem exec_rspInquiryReply {h : Byte} {r : List Byte} (hx : s.rxFifo = []) (hw : WholeFrame h (0x50 :: r)) :
    exec (.rspInquiryReply h r) s = .next { s with rxFifo := frameBytes h (0x50 :: r) } := by
  have hroom : s.rxFifo.length + (frameBytes h (0x50 :: r)).length ≤ 256 := by
    have hlen := hw.2.2.2
    rw [hx]
    simp only [frameBytes, List.length_cons, List.length_append, List.length_nil] at hlen ⊢
    omega
  rw [exec_of_replyFrame rfl, pushBytes_of_room hroom, hx, List.nil_append]

/-- With a poll every tick, the next tick of an inquiry's wait delivers the reply in the FIFO (R294, R297). -/
theorem tick_delivers_reply {h : Byte} {r : List Byte} (hs : s.fsm = .wait) (hp : s.pollCnt = 0)
    (hpoll : s.latPoll.toNat ≤ 1) (hk : s.latKind = .inq) (hf : s.freshDeframer)
    (hx : s.rxFifo = frameBytes h (0x50 :: r)) (hw : WholeFrame h (0x50 :: r)) (ha : FromDevice s.latAddr h) :
    s.tick.fsm = .done ∧ ResolvedRecord s.tick.rsp .inquiryReply s.latAddr (0x50 :: r) ∧ s.tick.rxFifo = [] ∧
      s.tick.wire = s.wire ∧ s.tick.records = s.records ++ [s.tick.rsp] := by
  have hdue : s.pollCnt.toNat + 1 = max s.latPoll.toNat 1 := by rw [hp, max_eq_right hpoll]; rfl
  have hkind : HasKind (0x50 :: r) .inquiryReply := ⟨r, rfl⟩
  rw [tick_of_wait hs, tickWait_due hdue]
  obtain ⟨hdone, hrsp, hfifo, -, hrec⟩ := pollAndGate_resolves_chunk
    (s := { s with waitCnt := satSucc s.waitCnt, pollCnt := 0 }) (fs := []) (rest := []) hf nofun
    (by simpa using hx) hw ha hkind (.inr ⟨hk, .inl rfl⟩)
  obtain ⟨-, hwire⟩ := sentFrom_pollAndGate (s := { s with waitCnt := satSucc s.waitCnt, pollCnt := 0 })
    (by simp [hs])
  exact ⟨hdone, hrsp, hfifo, hwire, hrec⟩

end

/-! ## The obligation -/

/-- Settles O38: the frame goes out, the reply stands alone in the FIFO, and the next tick polls it. -/
theorem answeredInquiryDeliversItsReply : Obligations.AnsweredInquiryDeliversItsReply := by
  unfold Obligations.AnsweredInquiryDeliversItsReply
  intro s t h r hs hx hf hl hpoll ht hv hw ha
  have hrun : execAll (.reqInq t :: (List.replicate (t.length + 1) .txacc ++ [.rspInquiryReply h r, .tick])) s =
      .next (State.tick { s.awaitingReply t with rxFifo := frameBytes h (0x50 :: r) }) := by
    rw [← List.cons_append, execAll_append (execAll_sends_inquiry hs hx hl ht hv),
      execAll_cons (exec_rspInquiryReply (s := s.awaitingReply t) hx hw), execAll_singleton]
    rfl
  obtain ⟨hdone, hrsp, hfifo, hwire, hrec⟩ :=
    tick_delivers_reply (s := { s.awaitingReply t with rxFifo := frameBytes h (0x50 :: r) }) rfl rfl hpoll rfl hf rfl
      hw ha
  have hsent : State.wire { s.awaitingReply t with rxFifo := frameBytes h (0x50 :: r) } = _ :=
    awaitingReply_wire (s := s) (t := t) hv.length_le
  have hnone : State.records { s.awaitingReply t with rxFifo := frameBytes h (0x50 :: r) } = _ :=
    awaitingReply_records (s := s) (t := t)
  exact ⟨_, hrun, hdone, hrsp, hfifo, hwire.trans hsent, hrec.trans (congrArg (· ++ _) hnone)⟩

end Sys2Proof.Machine
end

/-! # Proofs: no input stops the block, and a report comes before the resolution (60_exceptions.md R346, R349) -/

section
namespace Sys2Proof.Machine

/-! ## Every event is answered (R346) -/

/-- Only a catalog name can be refused: everything else answers a next state, whatever its operands (R236, R346). -/
theorem exec_answers_of_not_isCatalog {i : Instr} (h : isCatalog i = false) (s : State) :
    ∃ t, exec i s = .next t := by
  cases i with
  | cmdPowerOn | cmdPowerOff | cmdZoomIn | cmdZoomStop | cmdMove | cmdMoveStop | cmdHome | cmdPtReset | cmdPresetRecall
  | cmdPresetStore | inqPower | inqPantiltPos | inqVersion | inqRedGain => cases h
  | term dir => cases dir <;> exact ⟨_, rfl⟩
  | _ => exact ⟨_, rfl⟩

/-- No row of the op map is a catalog name (R102, R117). -/
theorem isCatalog_rowInstr {k : Nat} (w : HostOp) (hk : k < 31) : isCatalog (rowInstr k w) = false := by
  interval_cases k <;> rfl

/-- An input event is never decoded to a catalog name (log 6). -/
theorem isCatalog_decode (w : Input) : isCatalog (decode w) = false := by
  cases w with
  | hostOp o =>
    rw [decode_of_op rfl]
    exact isCatalog_rowInstr o (opRow_tests o.op).1
  | txAccept | rxByte | tick | reset => rfl

/-! ## One reported frame among ignored ones (R310) -/

/-- A whole Other frame is passed over, whatever the request waits for (R299). -/
theorem passes_of_other {r : ReqKind} {a : DevAddr} {h : Byte} {p : List Byte} (hw : WholeFrame h p)
    (hk : HasKind p .other) : Passes r a (h, p) := by
  have hnot : ¬ EndsWait r .other := by simp [EndsWait]
  exact ⟨hw, fun _ => ⟨.other, hk, hnot⟩⟩

/-- Of ignored frames around one that is reported, the only event is the one of that frame (R297, R310). -/
theorem reports_of_one_reported {s : State} {fs gs : List (Byte × List Byte)} {f : Byte × List Byte} {ds : List Output}
    (hfs : ∀ e ∈ fs, s.ignores e) (hgs : ∀ e ∈ gs, s.ignores e) (hf : IsReported s.latAddr s.diagEn f)
    (hr : Reports s.latAddr s.diagEn (fs ++ f :: gs) ds) :
    ∃ q, DiagField f.2 q ∧ ds = [.diag s.latAddr (BitVec.ofNat 4 f.2.length) q] := by
  induction fs with
  | nil =>
    cases hr with
    | silent hn _ => exact absurd hf hn
    | event q _ hq hrest => exact ⟨q, hq, by rw [reports_of_ignores hgs hrest]⟩
  | cons e fs ih =>
    obtain ⟨⟨-, hn⟩, hfs⟩ := List.forall_mem_cons.1 hfs
    cases hr with
    | silent _ hrest => exact ih hfs hrest
    | event _ he _ _ => exact absurd he hn

/-! ## The obligations -/

/-- Settles O6: a step runs a REQ, a decoded input or nothing, and none of these is a catalog name, which alone could
be refused. -/
theorem stepAlwaysAnswersANextState : Obligations.StepAlwaysAnswersANextState := by
  unfold Obligations.StepAlwaysAnswersANextState
  intro s
  cases hr : s.heldRequest with
  | some rt =>
    obtain ⟨⟨k, d⟩, t⟩ := rt
    exact ⟨t.request k d, (step_of_heldRequest hr).trans (exec_requestInstr k d t)⟩
  | none =>
    cases hw : s.nextInput with
    | some wt =>
      rw [step_of_nextInput hr hw]
      exact exec_answers_of_not_isCatalog (isCatalog_decode wt.1) wt.2
    | none => exact ⟨s, step_of_noEvent hr hw⟩

/-- Settles O34: to the poll the Other frame is one more frame to pass over before the qualifying one, and the only one
of them that is reported. -/
theorem diagnosticComesBeforeResolution : Obligations.DiagnosticComesBeforeResolution := by
  unfold Obligations.DiagnosticComesBeforeResolution
  intro i s b fs gs h g p q rest k hev hf hdiag hign hx hwp hwq hah hag hkp hkq he
  obtain ⟨hfs, hgs⟩ := List.forall_mem_append.1 hign
  have hpasses : ∀ f ∈ fs ++ (h, p) :: gs, Passes s.latKind s.latAddr f :=
    List.forall_mem_append.2 ⟨fun f hm => (hfs f hm).1,
      List.forall_mem_cons.2 ⟨passes_of_other hwp hkp, fun f hm => (hgs f hm).1⟩⟩
  have hchunk : s.rxFifo = chunkOf (fs ++ (h, p) :: gs) ++ frameBytes g q ++ rest := by simp [hx, chunkOf]
  obtain ⟨u, ds, hexec, hdone, hrsp, hds, hout, -⟩ :=
    firstQualifyingFrameResolves i s b _ g q rest k hev hf hpasses hchunk hwq hag hkq he
  have hreported : IsReported s.latAddr s.diagEn (h, p) := ⟨hah, hkp, hdiag⟩
  obtain ⟨f, hfield, rfl⟩ := reports_of_one_reported hfs hgs hreported hds
  exact ⟨u, f, hexec, hdone, hrsp, hfield, by simpa using hout⟩

end Sys2Proof.Machine
end

/-! # Proofs: the reset values (00_scope.md R7, R8; 10_state.md R31; 70_reset_and_hazards.md R380, R381) -/

section
namespace Sys2Proof.Machine

/-! ## The build parameters -/

/-- The two bounds that legal build parameters meet (R7, log 4). -/
theorem wf_params_iff {p : Params} : p.wf = true ↔ 1 ≤ p.ticksPerUnit ∧ 2 * p.ticksPerUnit < 2 ^ 32 := by
  rw [Params.wf, Bool.and_eq_true, decide_eq_true_iff, decide_eq_true_iff]

/-- Within the bounds TIMEOUT_RESET does not wrap (R44, log 4). -/
theorem timeoutReset_toNat {p : Params} (h : p.wf = true) : p.timeoutReset.toNat = 2 * p.ticksPerUnit := by
  obtain ⟨-, hfits⟩ := wf_params_iff.1 h
  exact (BitVec.toNat_ofNat ..).trans (Nat.mod_eq_of_lt hfits)

/-- Whatever the open parameters are, the type of TICKS_PER_UNIT keeps the block of `State.reset` legal (log 10). -/
theorem wf_config_params : Config.params.wf = true := by
  have hle : Config.ticksPerUnitLessOne.val ≤ 2147483646 := Nat.le_of_lt_succ Config.ticksPerUnitLessOne.isLt
  refine wf_params_iff.2 ⟨Nat.succ_pos _, ?_⟩
  change 2 * (Config.ticksPerUnitLessOne.val + 1) < 2 ^ 32
  omega

/-! ## Buffers, record and register words after reset -/

theorem padBytes_nil (n : Nat) : padBytes n [] = Vector.replicate n 0 := by
  ext i hi
  simp [padBytes_getElem]

/-- The record with all fields 0 is the one of no frame, with the codes 0 (R31, R340, R343). -/
theorem zero_eq_emptyRecord : Rsp.zero = emptyRecord .sent 0 .none := by
  rw [Rsp.zero, emptyRecord, padBytes_nil]

/-- After reset CTRL selects device 1, with diagnostics off (R41, R381). -/
theorem ctrlWord_resetOf (p : Params) : (State.resetOf p).ctrlWord = 0x00000001 := by
  simp only [State.ctrlWord, State.resetOf]
  decide

/-- After reset both widths of GEOM are 4 (R47, R381). -/
theorem geomWord_resetOf (p : Params) : (State.resetOf p).geomWord = 0x00000044 := by
  simp only [State.geomWord, State.resetOf]
  decide

/-- After reset STATUS shows the two build choices in bits 8 and 9 and nothing else (R48, R381). -/
theorem statusWord_resetOf (p : Params) : (State.resetOf p).statusWord =
    (if p.reassembly = .on then 0x100 else 0) + (if p.digitMode = .fullByte then 0x200 else 0) := by
  simp only [State.statusWord, State.resetOf, List.length_nil]
  cases p.reassembly <;> cases p.digitMode <;> decide

/-- After reset RSP_INFO shows the empty record and no response waiting (R49, R381). -/
theorem rspInfoWord_resetOf (p : Params) : (State.resetOf p).rspInfoWord = 0 := by
  simp only [State.rspInfoWord, State.resetOf, Rsp.zero]
  decide

/-! ## The order of a cycle -/

/-- RESET comes first among the inputs of its cycle (R80, R380). -/
theorem head?_inputs_of_reset {c : Cycle} (h : c.reset = true) : c.inputs.head? = some .reset := by
  simp [Cycle.inputs, h]

/-! ## The obligations -/

/-- Settles O7: RESET answers `doReset`, whose fields are those of `resetOf` but for the ports and the outputs. -/
theorem resetGivesEveryElementItsResetValue : Obligations.ResetGivesEveryElementItsResetValue := by
  unfold Obligations.ResetGivesEveryElementItsResetValue
  refine ⟨fun s => ⟨s.doReset, exec_reset s, ?values⟩, fun c => head?_inputs_of_reset⟩
  case values =>
    have htxbuf : s.doReset.txbuf = Vector.replicate 16 0 := padBytes_nil 16
    have htimeout (h : s.params.wf = true) : (s.doReset.cfgRead 1).toNat = 2 * s.params.ticksPerUnit :=
      timeoutReset_toNat h
    exact ⟨rfl, rfl, rfl, rfl, rfl, rfl, htxbuf, rfl, rfl, rfl, rfl, rfl, rfl, rfl, rfl, zero_eq_emptyRecord,
      ctrlWord_resetOf s.params, htimeout, rfl, rfl, geomWord_resetOf s.params, statusWord_resetOf s.params,
      rspInfoWord_resetOf s.params, rfl, rfl, rfl, rfl, rfl, rfl⟩

/-- Settles O9: reset meets the invariant under legal parameters, and those of `State.reset` are legal. -/
theorem resetStateMeetsTheInvariant : Obligations.ResetStateMeetsTheInvariant := by
  unfold Obligations.ResetStateMeetsTheInvariant
  exact ⟨fun p => inv_resetOf, inv_resetOf wf_config_params⟩

end Sys2Proof.Machine
end
